-- ==== Sys2Proof/Word.lean ====
section
/-! DEFINITION. The two word types of the block: a byte of the stream and a word of the command channel. -/

namespace Sys2Proof

/-- A byte of the stream: 8 bits, unsigned (00_scope.md R9). -/
abbrev Byte := BitVec 8

/-- One word of the command channel: 42 bits, `op = word[41:40]`, `arg = word[39:0]` (30_encoding.md R70). -/
abbrev Word := BitVec 42

end Sys2Proof
end

