-- ==== Sys2Proof/Syntax.lean ====
section
/-! DEFINITION. The commands of the block (spec/opcode_table.json, one constructor per row) and the names of the
three enumerations of a Dialect. -/

namespace Sys2Proof

/-- The checksum algorithms (30_encoding.md R75). Code 3 is no algorithm (40_checksum.md R109). -/
inductive Alg where
  | none
  | xor
  | crc16
  deriving DecidableEq, Repr, Inhabited

/-- The width of the length field (30_encoding.md R76): `N = lw + 1`. -/
inductive LengthWidth where
  | one
  | two
  deriving DecidableEq, Repr, Inhabited

/-- What the length field counts (30_encoding.md R77). -/
inductive LengthPolicy where
  | payloadOnly
  | payloadPlusCommand
  deriving DecidableEq, Repr, Inhabited

/-- A command word by its op code (30_encoding.md R71), with every other bit of the word as a field. The reserved
fields are kept, because the meaning of FEED and RESET depends on them (43_control.md R176; log 9). -/
inductive Instr where
  /-- FEED (42_stream.md R140): `rsv = arg[39:8]`, `b = arg[7:0]` (30_encoding.md R72). -/
  | feed (rsv : BitVec 32) (b : Byte)
  /-- RESET (43_control.md R170): `rsv = arg[39:0]` (30_encoding.md R73). -/
  | reset (rsv : BitVec 40)
  /-- CONFIGURE (43_control.md R171), the fields of 30_encoding.md R74 from bit 0 up. -/
  | configure (start stop : Byte) (alg : BitVec 2) (lw lc : BitVec 1) (rsv : BitVec 4) (maxPayload : BitVec 16)
  /-- Reserved op 3 (43_control.md R175): no field of `arg` is read. -/
  | reservedOp3 (arg : BitVec 40)
  deriving DecidableEq, Repr

end Sys2Proof
end

