-- ==== Sys2Proof/WellFormed.lean ====
section
/-! DEFINITION. When a command's word lies in its row of spec/opcode_table.json: the row's must-be-zero bits are 0. -/

namespace Sys2Proof

/-- FEED and RESET must have their reserved bits 0 (30_encoding.md R72, R73); every word with op 2 is a CONFIGURE and
every word with op 3 is the reserved command (R78). An ill-formed command still has a meaning: 43_control.md R176. -/
def Instr.WellFormed : Instr → Bool
  | .feed rsv _ => rsv == 0
  | .reset rsv => rsv == 0
  | .configure _ _ _ _ _ _ _ => true
  | .reservedOp3 _ => true

end Sys2Proof
end

