-- ==== Sys2Proof/Decode.lean ====
section
/-! DEFINITION. The decoder of a command word (30_encoding.md R72 to R74, R79), the encoder, and the host's reading of a
number as a command word. -/

namespace Sys2Proof

/-- `word[41:40]`, the op field (30_encoding.md R71). -/
def opField (w : Word) : BitVec 2 := w.extractLsb' 40 2

/-- The command a word stands for. It is total: every 42-bit word is a command (30_encoding.md R78, R79). Whether the
reserved bits of FEED and RESET are 0 is checked first thing in their meanings (43_control.md R176; log 9). -/
def decode (w : Word) : Instr :=
  if opField w = 0#2 then
    .feed (w.extractLsb' 8 32) (w.extractLsb' 0 8)
  else if opField w = 1#2 then
    .reset (w.extractLsb' 0 40)
  else if opField w = 2#2 then
    .configure (w.extractLsb' 0 8) (w.extractLsb' 8 8) (w.extractLsb' 16 2) (w.extractLsb' 18 1)
      (w.extractLsb' 19 1) (w.extractLsb' 20 4) (w.extractLsb' 24 16)
  else
    .reservedOp3 (w.extractLsb' 0 40)

/-- The word of a command: the fields of 30_encoding.md R72 to R74, most significant first. -/
def encode : Instr → Word
  | .feed rsv b => 0#2 ++ rsv ++ b
  | .reset rsv => 1#2 ++ rsv
  | .configure start stop alg lw lc rsv maxPayload => 2#2 ++ maxPayload ++ rsv ++ lc ++ lw ++ alg ++ stop ++ start
  | .reservedOp3 arg => 3#2 ++ arg

/-- Why a number is no command word. -/
inductive WordError where
  /-- It has a bit at position 42 or above: the command channel is 42 bits wide (30_encoding.md R70). -/
  | tooWide
  deriving DecidableEq, Repr

/-- The command word whose bits are the low `nbits` bits of the number `w`, bit 0 the least significant (log 5). -/
def wordOfNat (nbits w : Nat) : Except WordError Word :=
  if w % 2 ^ nbits < 2 ^ 42 then .ok (BitVec.ofNat 42 (w % 2 ^ nbits)) else .error .tooWide

/-- The command read from a number whose bits are numbered as spec/opcode_table.json numbers them. -/
def decodeTableWord (nbits w : Nat) : Option Instr :=
  match wordOfNat nbits w with
  | .ok word => some (decode word)
  | .error _ => none

end Sys2Proof
end

