-- ==== Sys2Proof/Config.lean ====
section
/-! DEFINITION. The implementation parameters the spec leaves OPEN (00_scope.md R8): named constants with no value, and
the record in which a state carries them (log 4). -/

namespace Sys2Proof

/-- The implementation parameters of 00_scope.md R8, fixed for a block. -/
structure Params where
  /-- `BUF_DEPTH`, bytes of the parameter buffer, 0..65535. -/
  bufDepth : BitVec 16
  /-- `MAX_PAYLOAD`, the budget of the two presets, 0..`BUF_DEPTH`. -/
  maxPayload : BitVec 16
  /-- `PRESET_CSUM_ALG`, the algorithm of the two presets. -/
  presetCsumAlg : Alg
  /-- `CRC16_POLY`, the coefficients of x^15..x^0. -/
  crc16Poly : BitVec 16
  /-- `CRC16_INIT`, the register before the first byte. -/
  crc16Init : BitVec 16
  /-- `CRC16_REFIN`: reflect each input byte. -/
  crc16RefIn : Bool
  /-- `CRC16_REFOUT`: reflect the final register. -/
  crc16RefOut : Bool
  /-- `CRC16_XOROUT`, XORed into the final register. -/
  crc16XorOut : BitVec 16
  deriving DecidableEq, Repr

/-- The range R8 gives `MAX_PAYLOAD`: at most `BUF_DEPTH`. -/
abbrev Params.Ok (p : Params) : Prop := p.maxPayload ≤ p.bufDepth

/-- `BUF_DEPTH`, OPEN. -/
opaque Config.bufDepth : BitVec 16

/-- `MAX_PAYLOAD`, OPEN, an integer 0..`BUF_DEPTH`. -/
opaque Config.maxPayload : Fin (Config.bufDepth.toNat + 1)

/-- `PRESET_CSUM_ALG`, OPEN (43_control.md R178). -/
opaque Config.presetCsumAlg : Alg

/-- `CRC16_POLY`, OPEN (40_checksum.md R104). -/
opaque Config.crc16Poly : BitVec 16

/-- `CRC16_INIT`, OPEN (40_checksum.md R104). -/
opaque Config.crc16Init : BitVec 16

/-- `CRC16_REFIN`, OPEN (40_checksum.md R104). -/
opaque Config.crc16RefIn : Bool

/-- `CRC16_REFOUT`, OPEN (40_checksum.md R104). -/
opaque Config.crc16RefOut : Bool

/-- `CRC16_XOROUT`, OPEN (40_checksum.md R104). -/
opaque Config.crc16XorOut : BitVec 16

/-- The block's parameters: nothing in Lean can evaluate them. -/
def Config.params : Params where
  bufDepth := Config.bufDepth
  maxPayload := BitVec.ofNat 16 Config.maxPayload.val
  presetCsumAlg := Config.presetCsumAlg
  crc16Poly := Config.crc16Poly
  crc16Init := Config.crc16Init
  crc16RefIn := Config.crc16RefIn
  crc16RefOut := Config.crc16RefOut
  crc16XorOut := Config.crc16XorOut

end Sys2Proof
end

