-- ==== Sys2Proof/Machine/State.lean ====
section
/-! DEFINITION. The block's state as plain data (10_state.md R20), its output events, the model's own reasons to stop,
and the state after power-on reset (10_state.md R37). -/

namespace Sys2Proof.Machine

/-- The Dialect held by `cfg` (10_state.md R22). -/
structure Dialect where
  /-- `cfg.start`, the start byte. -/
  startByte : Byte
  /-- `cfg.end`, the end byte. -/
  endByte : Byte
  /-- `cfg.alg`, the checksum algorithm. -/
  alg : Alg
  /-- `cfg.lw`, the width of the length field. -/
  lw : LengthWidth
  /-- `cfg.lc`, what the length field counts. -/
  lc : LengthPolicy
  /-- `cfg.max_payload`, the byte budget. -/
  maxPayload : BitVec 16
  deriving DecidableEq, Repr

/-- The resynchronizer states, in code order 0 to 4 (10_state.md R24). Codes 5, 6 and 7 are never held (log 10). -/
inductive RxState where
  | unconfigured
  | seekingStart
  | readingLength
  | readingPayload
  | readingChecksumEnd
  deriving DecidableEq, Repr

/-- The reasons a Resync event can carry (60_exceptions.md R191); the other codes are never emitted (log 12). -/
inductive Reason where
  | badChecksum
  | lengthMismatch
  | unexpectedStartEnd
  | budgetExceeded
  | noStart
  deriving DecidableEq, Repr

/-- A frame: command code, parameters in wire order, checksum bytes as received (30_encoding.md R84). -/
structure Frame where
  cmd : Byte
  params : List Byte
  csum : List Byte
  deriving DecidableEq, Repr

/-- An output event (30_encoding.md R84). -/
inductive Event where
  /-- A validated frame (42_stream.md R150). -/
  | frame (f : Frame)
  /-- `count` bytes were discarded, for `reason` (42_stream.md R151). -/
  | resync (count : BitVec 32) (reason : Reason)
  deriving DecidableEq, Repr

/-- The parameter buffer: the bytes written since power-on, by index, indices strictly rising. An index that is not
listed holds no value (20_memory.md R50; log 3). -/
abbrev Memory := List Host.Cell

/-- The block's state: the elements of 10_state.md R20 under their own names, the event output (R34), and two fields of
the model's own, `params` (log 4) and `input` (log 5). -/
structure State where
  /-- The implementation parameters (00_scope.md R8); no command writes them. -/
  params : Params
  /-- `cfg`, the Dialect (R22). -/
  cfg : Dialect
  /-- `cfg_valid`: a legal configuration is loaded (R23). -/
  cfgValid : Bool
  /-- `st`, the resynchronizer state (R24). -/
  st : RxState
  /-- `k`, the bytes taken in the current state (R25). -/
  k : BitVec 16
  /-- `c`, the bytes of the current frame attempt (R26). -/
  c : BitVec 32
  /-- `cmd`, the received command code (R27). -/
  cmd : Byte
  /-- `L`, the declared length (R28). -/
  L : BitVec 16
  /-- `P`, the parameter count (R28). -/
  P : BitVec 16
  /-- `buf`, the parameter buffer (R29). -/
  buf : Memory
  /-- `rx`, the received checksum bytes (R30). -/
  rx : List Byte
  /-- `f_unconf`, sticky: a FEED while UNCONFIGURED (R31). -/
  fUnconf : Bool
  /-- `f_cfg`, sticky: an illegal CONFIGURE (R31). -/
  fCfg : Bool
  /-- `f_op`, sticky: a reserved op code or nonzero reserved bits (R31). -/
  fOp : Bool
  /-- `g`, the garbage run counter (R32). -/
  g : BitVec 32
  /-- The event output, oldest first (R34): the model's observation; the block itself holds no copy. -/
  events : List Event
  /-- The command words the host will present, next one first (00_scope.md R7). -/
  input : List Word
  deriving DecidableEq, Repr

/-- The model's own reasons to stop. No run from reset takes one (the invariant of Safety.lean rules them out): the
sticky faults of the spec are next states (log 8). -/
inductive Fault where
  /-- An access to `buf` at an index that is not below `BUF_DEPTH`, which does not exist (20_memory.md R50). Raised by
  FEED in READING_PAYLOAD and at the end position. Safe. -/
  | bufferIndex (index : Nat)
  /-- A read of `buf` at an index that nothing has written, which holds no value (10_state.md R29, R37). Raised by FEED
  at the end position. Safe. -/
  | bufferUnwritten (index : Nat)
  deriving DecidableEq, Repr

/-- The reasons the model has no meaning for a command. -/
inductive Refusal where
  /-- The command has no meaning in the model yet. Raised by an arm of `exec` only. Safe. -/
  | notModelled (mnemonic : String)
  deriving DecidableEq, Repr

/-- The state after power-on reset (10_state.md R37, 70_reset_and_hazards.md R210). The spec gives `cfg` and `cmd` no
value: the zeros are DESIGN CHOICES (logs 1 and 2). `buf` lists nothing (log 3), no command is presented (log 5). -/
def State.reset : State where
  params := Config.params
  cfg := ⟨0, 0, .none, .one, .payloadOnly, 0⟩
  cfgValid := false
  st := .unconfigured
  k := 0#16
  c := 0#32
  cmd := 0#8
  L := 0#16
  P := 0#16
  buf := []
  rx := []
  fUnconf := false
  fCfg := false
  fOp := false
  g := 0#32
  events := []
  input := []

end Sys2Proof.Machine
end

