-- ==== Sys2Proof/Machine/Flags.lean ====
section
/-! DEFINITION. The sticky fault flags (60_exceptions.md R193), the codes the block shows (10_state.md R24,
60_exceptions.md R191) and the STATUS word (10_state.md R33). -/

namespace Sys2Proof.Machine

/-- The three interface faults (60_exceptions.md R193). -/
inductive InterfaceFault where
  | unconf
  | cfg
  | op
  deriving DecidableEq, Repr

/-- `raise Fault(f)`: set the sticky flag, change nothing else (00_scope.md R11, 10_state.md R31). This is the whole of
an interface fault's entry (60_exceptions.md R196); nothing returns from it (R197). -/
def raiseFault (s : State) : InterfaceFault → State
  | .unconf => { s with fUnconf := true }
  | .cfg => { s with fCfg := true }
  | .op => { s with fOp := true }

/-- The code of a resynchronizer state (10_state.md R24). -/
def rxCode : RxState → BitVec 3
  | .unconfigured => 0
  | .seekingStart => 1
  | .readingLength => 2
  | .readingPayload => 3
  | .readingChecksumEnd => 4

/-- The code of a Resync reason (60_exceptions.md R191). -/
def reasonCode : Reason → BitVec 4
  | .badChecksum => 2
  | .lengthMismatch => 3
  | .unexpectedStartEnd => 4
  | .budgetExceeded => 5
  | .noStart => 6

/-- The STATUS word, bit 15 down to bit 0 (10_state.md R33). -/
def status (s : State) : BitVec 16 :=
  0#8 ++ BitVec.ofBool (decide (0#32 < s.g)) ++ BitVec.ofBool s.fOp ++ BitVec.ofBool s.fCfg ++ BitVec.ofBool s.fUnconf
    ++ BitVec.ofBool s.cfgValid ++ rxCode s.st

end Sys2Proof.Machine
end

