-- ==== Sys2Proof/Machine/Checksum.lean ====
section
/-! DEFINITION. The checksum unit (40_checksum.md): a pure function of the algorithm, the span and the CRC16
parameters. -/

namespace Sys2Proof.Machine

/-- `xor8`: the byte-wise exclusive-or of the span (40_checksum.md R103). -/
def xor8 (span : List Byte) : Byte := span.foldl (· ^^^ ·) 0

/-- One shift of the CRC16 register (40_checksum.md R104). -/
def crcShift (poly r : BitVec 16) : BitVec 16 := if r.msb then (r <<< 1) ^^^ poly else r <<< 1

/-- One byte through the CRC16 register: the byte, reflected where `CRC16_REFIN` says so, is XORed into the high half,
then eight shifts (40_checksum.md R104). -/
def crcByte (p : Params) (r : BitVec 16) (d : Byte) : BitVec 16 :=
  (crcShift p.crc16Poly)^[8] (r ^^^ ((if p.crc16RefIn then d.reverse else d).setWidth 16 <<< 8))

/-- `crc16` (40_checksum.md R104; log 13). `BitVec.reverse` moves bit `j` to bit `width - 1 - j`. -/
def crc16 (p : Params) (span : List Byte) : BitVec 16 :=
  let r := span.foldl (crcByte p) p.crc16Init
  (if p.crc16RefOut then r.reverse else r) ^^^ p.crc16XorOut

/-- A 16-bit value as two bytes, most significant first (20_memory.md R51, R52). -/
def bytesBE (v : BitVec 16) : List Byte := [v.extractLsb' 8 8, v.extractLsb' 0 8]

/-- `compute_checksum`, the checksum bytes in wire order (40_checksum.md R100). -/
def computeChecksum (p : Params) : Alg → List Byte → List Byte
  | .none, _ => []
  | .xor, span => [xor8 span]
  | .crc16, span => bytesBE (crc16 p span)

/-- `checksum_width`, written `W` in the spec (40_checksum.md R101). -/
def checksumWidth : Alg → Nat
  | .none => 0
  | .xor => 1
  | .crc16 => 2

end Sys2Proof.Machine
end

