-- ==== Sys2Proof/Machine/Operands.lean ====
section
/-! DEFINITION. What the operands of CONFIGURE mean (10_state.md R22, 43_control.md R172) and what a Dialect makes of a
length field (41_frame_check.md R121 to R123). -/

namespace Sys2Proof.Machine

/-- The algorithm of an `alg` code; code 3 has none (30_encoding.md R75, 40_checksum.md R109). -/
def algOfCode (a : BitVec 2) : Option Alg :=
  if a = 0#2 then some .none else if a = 1#2 then some .xor else if a = 2#2 then some .crc16 else none

/-- The `alg` code of an algorithm (30_encoding.md R75). -/
def algCode : Alg → BitVec 2
  | .none => 0
  | .xor => 1
  | .crc16 => 2

/-- The length width of an `lw` code (30_encoding.md R76). -/
def widthOfCode (w : BitVec 1) : LengthWidth := if w = 0#1 then .one else .two

/-- The `lw` code of a length width (30_encoding.md R76). -/
def widthCode : LengthWidth → BitVec 1
  | .one => 0
  | .two => 1

/-- The length policy of an `lc` code (30_encoding.md R77). -/
def policyOfCode (c : BitVec 1) : LengthPolicy := if c = 0#1 then .payloadOnly else .payloadPlusCommand

/-- The `lc` code of a length policy (30_encoding.md R77). -/
def policyCode : LengthPolicy → BitVec 1
  | .payloadOnly => 0
  | .payloadPlusCommand => 1

/-- The Dialect a CONFIGURE's operands give, where they are legal: `alg ≠ 3`, `rsv = 0` and not
`max_payload > BUF_DEPTH` (43_control.md R172; 30_encoding.md R78). -/
def legalDialect (p : Params) (start stop : Byte) (alg : BitVec 2) (lw lc : BitVec 1) (rsv : BitVec 4)
    (maxPayload : BitVec 16) : Option Dialect :=
  match algOfCode alg with
  | none => none
  | some a =>
    if rsv = 0#4 ∧ ¬ p.bufDepth < maxPayload then
      some ⟨start, stop, a, widthOfCode lw, policyOfCode lc, maxPayload⟩
    else none

/-- `N`, the bytes of the length field (30_encoding.md R76). -/
def lengthBytes : LengthWidth → Nat
  | .one => 1
  | .two => 2

/-- `L` after one more length byte, most significant byte first (42_stream.md R143, 30_encoding.md R81). -/
def addLengthByte (l : BitVec 16) (b : Byte) : BitVec 16 := (l <<< 8) ||| b.setWidth 16

/-- The value of a length field (30_encoding.md R81). -/
def lengthValue (bs : List Byte) : BitVec 16 := bs.foldl addLengthByte 0

/-- `lenbytes(L)`, the length field of the value `L` (42_stream.md R147, 41_frame_check.md R128). -/
def lenBytes : LengthWidth → BitVec 16 → List Byte
  | .one, l => [l.extractLsb' 0 8]
  | .two, l => bytesBE l

/-- `P`, the parameter count a declared length gives; none where it matches no frame (41_frame_check.md R122). -/
def paramCount : LengthPolicy → BitVec 16 → Option (BitVec 16)
  | .payloadOnly, l => some l
  | .payloadPlusCommand, l => if l = 0#16 then none else some (l - 1#16)

/-- `T = 3 + N + P + W`, the length of a frame (41_frame_check.md R123). -/
def frameLength (d : Dialect) (count : Nat) : Nat := 3 + lengthBytes d.lw + count + checksumWidth d.alg

/-- The checksum span `[cmd] ++ lenbytes ++ params` (40_checksum.md R106). -/
def checksumSpan (d : Dialect) (cmd : Byte) (l : BitVec 16) (params : List Byte) : List Byte :=
  cmd :: (lenBytes d.lw l ++ params)

end Sys2Proof.Machine
end

