-- ==== Sys2Proof/Machine/Ops.lean ====
section
/-! DEFINITION. The shared operations: the parameter buffer, the command channel, the event output, and the entry of a
stream error. -/

namespace Sys2Proof.Machine

/-- What a command answers. -/
abbrev Result := Host.Outcome State Fault Refusal

/-- The byte at an index, where one was written. -/
def Memory.read : Memory → Nat → Option Byte
  | [], _ => none
  | (j, v) :: m, i => if i = j then some v else Memory.read m i

/-- Write a byte at an index, keeping the indices strictly rising. -/
def Memory.write : Memory → Nat → Byte → Memory
  | [], i, b => [(i, b)]
  | (j, v) :: m, i, b =>
    if i < j then (i, b) :: (j, v) :: m
    else if i = j then (i, b) :: m
    else (j, v) :: Memory.write m i b

/-- The canonical form: indices strictly rising. No listed entry can equal what an unlisted index reads as, which is no
value. -/
def Memory.wf : Memory → Bool
  | [] => true
  | (j, _) :: m => m.all (fun e => decide (j < e.1)) && Memory.wf m

/-- `MemRead(i, 1)` (20_memory.md R50); an index that does not exist or holds no value faults (logs 3 and 11). -/
def memRead (s : State) (i : Nat) : Except Fault Byte :=
  if i < s.params.bufDepth.toNat then
    match Memory.read s.buf i with
    | some b => .ok b
    | none => .error (.bufferUnwritten i)
  else .error (.bufferIndex i)

/-- `MemWrite(i, 1, b)` (20_memory.md R50); an index that does not exist faults (log 11). -/
def memWrite (s : State) (i : Nat) (b : Byte) : Except Fault State :=
  if i < s.params.bufDepth.toNat then .ok { s with buf := Memory.write s.buf i b } else .error (.bufferIndex i)

/-- `[MemRead(j, 1) for j in i .. i + n - 1]` (42_stream.md R147). -/
def memReadRange (s : State) : Nat → Nat → Except Fault (List Byte)
  | _, 0 => .ok []
  | i, n + 1 =>
    match memRead s i with
    | .error e => .error e
    | .ok b =>
      match memReadRange s (i + 1) n with
      | .error e => .error e
      | .ok bs => .ok (b :: bs)

/-- Append an event to the event output (00_scope.md R11, 10_state.md R34). -/
def emit (s : State) (e : Event) : State := { s with events := s.events ++ [e] }

/-- Drop the partial attempt: `k`, `c`, `L`, `P` and `rx` as they are between attempts (42_stream.md R148,
43_control.md R170, R171). -/
def clearAttempt (s : State) : State := { s with k := 0#16, c := 0#32, L := 0#16, P := 0#16, rx := [] }

/-- `to_seek()` (42_stream.md R148). -/
def toSeek (s : State) : State := { clearAttempt s with st := .seekingStart }

/-- A stream error, the block's only trap (60_exceptions.md R196): one Resync event that counts the attempt's bytes, then
the return to SEEKING_START. Nothing is saved, no flag changes (R190) and there is no return (R197). -/
def resync (s : State) (r : Reason) : State := toSeek (emit s (.resync s.c r))

/-- The next command on the channel and the state once it is taken (00_scope.md R7; log 5). -/
def fetch (s : State) : Option (Word × State) :=
  match s.input with
  | [] => none
  | w :: rest => some (w, { s with input := rest })

/-- Present a word as the next command on the channel (log 5). -/
def present (s : State) (w : Word) : State := { s with input := w :: s.input }

end Sys2Proof.Machine
end

