-- ==== Sys2Proof/Machine/Control.lean ====
section
/-! DEFINITION. RESET, CONFIGURE and the reserved op 3 (43_control.md R170 to R176). -/

namespace Sys2Proof.Machine

/-- The resynchronizer with no partial attempt and no garbage run (43_control.md R170, R171); nothing is emitted
(70_reset_and_hazards.md R214, R215). -/
def restart (s : State) : State := { clearAttempt s with g := 0#32 }

/-- RESET (43_control.md R170); with nonzero reserved bits it is not performed (R176). -/
def execReset (rsv : BitVec 40) (s : State) : Result :=
  if rsv = 0#40 then .next { restart s with st := if s.cfgValid then .seekingStart else .unconfigured }
  else .next (raiseFault s .op)

/-- A CONFIGURE with a legal Dialect (43_control.md R174). -/
def loadDialect (s : State) (d : Dialect) : State := { restart s with cfg := d, cfgValid := true, st := .seekingStart }

/-- An illegal CONFIGURE (43_control.md R173). -/
def refuseDialect (s : State) : State :=
  { restart (raiseFault s .cfg) with cfgValid := false, st := .unconfigured }

/-- The state after a CONFIGURE: the Dialect its operands give is loaded, or, where they give none, it is refused
(43_control.md R171). -/
def configured (s : State) : Option Dialect → State
  | some d => loadDialect s d
  | none => refuseDialect s

/-- CONFIGURE (43_control.md R171). -/
def execConfigure (start stop : Byte) (alg : BitVec 2) (lw lc : BitVec 1) (rsv : BitVec 4) (maxPayload : BitVec 16)
    (s : State) : Result :=
  .next (configured s (legalDialect s.params start stop alg lw lc rsv maxPayload))

/-- The CONFIGURE command of a Dialect, as the assembler writes it (30_encoding.md R74, R85). -/
def configureCommand (d : Dialect) : Instr :=
  .configure d.startByte d.endByte (algCode d.alg) (widthCode d.lw) (policyCode d.lc) 0 d.maxPayload

/-- The preset `R200` (43_control.md R178, R179). -/
def dialectR200 (alg : Alg) (maxPayload : BitVec 16) : Dialect := ⟨0xAA, 0xDD, alg, .two, .payloadOnly, maxPayload⟩

/-- The preset `YRM100x` (43_control.md R178, R179). -/
def dialectYrm100x (alg : Alg) (maxPayload : BitVec 16) : Dialect := ⟨0xBB, 0x7E, alg, .two, .payloadOnly, maxPayload⟩

/-- The reserved op 3, with any `arg` (43_control.md R175). -/
def execReservedOp3 (_arg : BitVec 40) (s : State) : Result := .next (raiseFault s .op)

end Sys2Proof.Machine
end

