-- ==== Sys2Proof/Machine/Feed.lean ====
section
/-! DEFINITION. FEED and the per-state steps of the stream resynchronizer (42_stream.md R140 to R148). -/

namespace Sys2Proof.Machine

/-- `g` after one more skipped byte: saturating (10_state.md R32). -/
def garbageIncr (g : BitVec 32) : BitVec 32 := if g < 0xFFFFFFFF#32 then g + 1#32 else g

/-- The report of a garbage run that a start byte ends (42_stream.md R142). -/
def reportGarbage (s : State) : State :=
  if 0#32 < s.g then { emit s (.resync s.g .noStart) with g := 0#32 } else s

/-- `feed_seek` (42_stream.md R142). -/
def feedSeek (b : Byte) (s : State) : State :=
  if b = s.cfg.startByte then
    { reportGarbage s with c := 1#32, L := 0#16, P := 0#16, rx := [], k := 0#16, st := .readingLength }
  else { s with g := garbageIncr s.g }

/-- `length_done` (42_stream.md R144). -/
def lengthDone (s : State) : State :=
  match paramCount s.cfg.lc s.L with
  | none => resync s .lengthMismatch
  | some n =>
    if s.cfg.maxPayload < n then resync s .budgetExceeded
    else if 0#16 < n then { s with P := n, st := .readingPayload, k := 0#16 }
    else { s with P := n, st := .readingChecksumEnd, k := 0#16 }

/-- `feed_len` (42_stream.md R143): the command code first, then the length bytes. -/
def feedLen (b : Byte) (s : State) : State :=
  let s1 := if s.k = 0#16 then { s with c := s.c + 1#32, cmd := b, k := s.k + 1#16 }
    else { s with c := s.c + 1#32, L := addLengthByte s.L b, k := s.k + 1#16 }
  if s1.k.toNat = 1 + lengthBytes s1.cfg.lw then lengthDone s1 else s1

/-- The end of `feed_pay`: the byte is buffered, `k` counts it, and the last one ends the state (42_stream.md R145). -/
def payDone (s : State) : State :=
  let s1 := { s with c := s.c + 1#32, k := s.k + 1#16 }
  if s1.k = s1.P then { s1 with st := .readingChecksumEnd, k := 0#16 } else s1

/-- `feed_pay` (42_stream.md R145): `buf[k] <- b`. -/
def feedPay (b : Byte) (s : State) : Result :=
  match memWrite s s.k.toNat b with
  | .error e => .fault e
  | .ok s1 => .next (payDone s1)

/-- `feed_csum` (42_stream.md R146). -/
def feedCsum (b : Byte) (s : State) : State := { s with c := s.c + 1#32, rx := s.rx ++ [b], k := s.k + 1#16 }

/-- The checksum check at the end position, with the parameters read from the buffer (42_stream.md R147). -/
def checkFrame (s : State) (params : List Byte) : State :=
  if s.rx ≠ computeChecksum s.params s.cfg.alg (checksumSpan s.cfg s.cmd s.L params) then resync s .badChecksum
  else toSeek (emit s (.frame ⟨s.cmd, params, s.rx⟩))

/-- `feed_end` (42_stream.md R147): the end byte first, then the checksum (60_exceptions.md R195). The buffer is read
only where the end byte is good (log 11). -/
def feedEnd (b : Byte) (s : State) : Result :=
  let s1 := { s with c := s.c + 1#32 }
  if b ≠ s1.cfg.endByte then .next (resync s1 .unexpectedStartEnd)
  else
    match memReadRange s1 0 s1.P.toNat with
    | .error e => .fault e
    | .ok params => .next (checkFrame s1 params)

/-- The step of a well-formed FEED, by state (42_stream.md R140, R141). -/
def feedByte (b : Byte) (s : State) : Result :=
  match s.st with
  | .unconfigured => .next (raiseFault s .unconf)
  | .seekingStart => .next (feedSeek b s)
  | .readingLength => .next (feedLen b s)
  | .readingPayload => feedPay b s
  | .readingChecksumEnd =>
    if s.k.toNat < checksumWidth s.cfg.alg then .next (feedCsum b s) else feedEnd b s

/-- FEED (42_stream.md R140); with nonzero reserved bits it is not performed (43_control.md R176). -/
def execFeed (rsv : BitVec 32) (b : Byte) (s : State) : Result :=
  if rsv = 0#32 then feedByte b s else .next (raiseFault s .op)

end Sys2Proof.Machine
end

