-- ==== Sys2Proof/Machine/Dispatch.lean ====
section
/-! DEFINITION. The meaning of each command, one arm per constructor of Instr. -/

namespace Sys2Proof.Machine

def exec (i : Instr) (s : State) : Host.Outcome State Fault Refusal :=
  match i with
  | .feed rsv b => Sys2Proof.Machine.execFeed rsv b s
  | .reset rsv => Sys2Proof.Machine.execReset rsv s
  | .configure start stop alg lw lc rsv maxPayload => Sys2Proof.Machine.execConfigure start stop alg lw lc rsv maxPayload s
  | .reservedOp3 arg => Sys2Proof.Machine.execReservedOp3 arg s

end Sys2Proof.Machine
end

