-- ==== Sys2Proof/Machine/Step.lean ====
section
/-! DEFINITION. One step of the block: it takes the next command of the channel and performs it (00_scope.md R7). -/

namespace Sys2Proof.Machine

/-- One step. With no command presented the block waits and nothing changes (60_exceptions.md R203; log 6). -/
def step (s : State) : Host.Outcome State Fault Refusal :=
  match fetch s with
  | none => .next s
  | some (w, s1) => exec (decode w) s1

/-- The state in which the number's word is the next command on the channel (log 5). A number that is no command word
cannot be presented. -/
def State.withFetchWord (s : State) (nbits w : Nat) : State :=
  match wordOfNat nbits w with
  | .ok word => present s word
  | .error _ => s

end Sys2Proof.Machine
end

