-- ==== Sys2Proof/Machine/Stream.lean ====
section
/-! DEFINITION. The software calls rendered as sequences of commands (42_stream.md R154). -/

namespace Sys2Proof.Machine

/-- The commands of the software `feed(bytes)`: one FEED per byte, in order (42_stream.md R154, 30_encoding.md R86). -/
def feedCommands (bs : List Byte) : List Instr := bs.map (Instr.feed 0#32)

/-- Perform commands in order, stopping where one stops (00_scope.md R7). -/
def execAll : List Instr → State → Result
  | [], s => .next s
  | i :: rest, s =>
    match exec i s with
    | .next s1 => execAll rest s1
    | .fault e => .fault e
    | .refused r => .refused r

/-- The software `feed(bytes)` (42_stream.md R154). -/
def feedAll (bs : List Byte) (s : State) : Result := execAll (feedCommands bs) s

/-- The software `feed` called on one chunk after another (42_stream.md R155). -/
def feedChunks : List (List Byte) → State → Result
  | [], s => .next s
  | bs :: rest, s =>
    match feedAll bs s with
    | .next s1 => feedChunks rest s1
    | .fault e => .fault e
    | .refused r => .refused r

end Sys2Proof.Machine
end

