-- ==== Sys2Proof/Machine/Assembler.lean ====
section
/-! DEFINITION. The textual syntax of commands (30_encoding.md R85, R86): lines, what the assembler refuses, and the
words it writes. The text layer's open points are log 14. -/

namespace Sys2Proof.Machine

/-- Why the assembler refuses a line (30_encoding.md R85). -/
inductive AsmError where
  /-- A byte operand outside 0..255. -/
  | byteRange
  /-- A `maxp` outside 0..65535. -/
  | maxpRange
  /-- A CONFIGURE key is missing. -/
  | missingKey
  /-- A key is given twice. -/
  | duplicateKey
  /-- A preset takes only the keys `alg` and `maxp` (R86). -/
  | keyNotAllowed
  /-- A `.word42` operand that is not `0x` and 11 hexadecimal digits of a 42-bit word. -/
  | wordRange
  /-- The line has no other reading. -/
  | malformed
  deriving DecidableEq, Repr

/-- A `key=value` operand of CONFIGURE (30_encoding.md R85). -/
inductive ConfigArg where
  | start (n : Nat)
  | stop (n : Nat)
  | alg (a : Alg)
  | lw (w : LengthWidth)
  | lc (c : LengthPolicy)
  | maxp (n : Nat)
  deriving DecidableEq, Repr

/-- The key of an operand, numbered in the order of 30_encoding.md R85. -/
def argKey : ConfigArg → Nat
  | .start _ => 0
  | .stop _ => 1
  | .alg _ => 2
  | .lw _ => 3
  | .lc _ => 4
  | .maxp _ => 5

/-- A line of the assembler: the commands of 30_encoding.md R85 and the pseudo-instructions of R86. -/
inductive AsmLine where
  | feed (b : Nat)
  | reset
  | configure (args : List ConfigArg)
  | word42 (w : Nat)
  | feeds (bs : List Nat)
  | configureR200 (args : List ConfigArg)
  | configureYrm100x (args : List ConfigArg)
  deriving DecidableEq, Repr

/-- The keys read so far. -/
structure ConfigKeys where
  start : Option Byte := none
  stop : Option Byte := none
  alg : Option Alg := none
  lw : Option LengthWidth := none
  lc : Option LengthPolicy := none
  maxp : Option (BitVec 16) := none
  deriving DecidableEq, Repr

/-- A byte operand (30_encoding.md R85). -/
def asmByte (n : Nat) : Except AsmError Byte := if n < 256 then .ok (BitVec.ofNat 8 n) else .error .byteRange

/-- A `maxp` operand (30_encoding.md R85). -/
def asmMaxp (n : Nat) : Except AsmError (BitVec 16) := if n < 65536 then .ok (BitVec.ofNat 16 n) else .error .maxpRange

/-- One more key; a key given twice is refused (30_encoding.md R85). -/
def addKey (ks : ConfigKeys) : ConfigArg → Except AsmError ConfigKeys
  | .start n => if ks.start.isSome then .error .duplicateKey else (asmByte n).map fun b => { ks with start := some b }
  | .stop n => if ks.stop.isSome then .error .duplicateKey else (asmByte n).map fun b => { ks with stop := some b }
  | .alg a => if ks.alg.isSome then .error .duplicateKey else .ok { ks with alg := some a }
  | .lw w => if ks.lw.isSome then .error .duplicateKey else .ok { ks with lw := some w }
  | .lc c => if ks.lc.isSome then .error .duplicateKey else .ok { ks with lc := some c }
  | .maxp n => if ks.maxp.isSome then .error .duplicateKey else (asmMaxp n).map fun m => { ks with maxp := some m }

/-- All keys of a line, in any order. -/
def collectKeys (ks : ConfigKeys) : List ConfigArg → Except AsmError ConfigKeys
  | [] => .ok ks
  | a :: rest =>
    match addKey ks a with
    | .error e => .error e
    | .ok ks1 => collectKeys ks1 rest

/-- The Dialect of a full CONFIGURE line: all six keys (30_encoding.md R85). -/
def fullDialect (ks : ConfigKeys) : Except AsmError Dialect :=
  match ks with
  | ⟨some start, some stop, some alg, some lw, some lc, some maxp⟩ => .ok ⟨start, stop, alg, lw, lc, maxp⟩
  | _ => .error .missingKey

/-- A preset line: `alg` and `maxp` default to `PRESET_CSUM_ALG` and `MAX_PAYLOAD` (30_encoding.md R86). -/
def presetDialect (p : Params) (preset : Alg → BitVec 16 → Dialect) (ks : ConfigKeys) : Except AsmError Dialect :=
  if ks.start.isSome || ks.stop.isSome || ks.lw.isSome || ks.lc.isSome then .error .keyNotAllowed
  else .ok (preset (ks.alg.getD p.presetCsumAlg) (ks.maxp.getD p.maxPayload))

/-- The bytes of a `FEEDS` line. -/
def asmBytes : List Nat → Except AsmError (List Byte)
  | [] => .ok []
  | n :: rest =>
    match asmByte n, asmBytes rest with
    | .ok b, .ok bs => .ok (b :: bs)
    | .error e, _ => .error e
    | _, .error e => .error e

/-- The command words of a line (30_encoding.md R85, R86). -/
def assembleLine (p : Params) : AsmLine → Except AsmError (List Word)
  | .feed n => (asmByte n).map fun b => [encode (.feed 0#32 b)]
  | .reset => .ok [encode (.reset 0)]
  | .configure args => (collectKeys {} args >>= fullDialect).map fun d => [encode (configureCommand d)]
  | .word42 n => if n < 2 ^ 42 then .ok [BitVec.ofNat 42 n] else .error .wordRange
  | .feeds ns => (asmBytes ns).map fun bs => (feedCommands bs).map encode
  | .configureR200 args => (collectKeys {} args >>= presetDialect p dialectR200).map fun d => [encode (configureCommand d)]
  | .configureYrm100x args =>
    (collectKeys {} args >>= presetDialect p dialectYrm100x).map fun d => [encode (configureCommand d)]

/-- The digits of 30_encoding.md R85's numbers, by rising value; a hexadecimal letter is looked up in upper case
(log 14). -/
def digitChars : List Char := "0123456789ABCDEF".toList

/-- The value of a character as a digit of a base up to 16: its place among the digits, where that is below the base. -/
def digitValue (base : Nat) (ch : Char) : Option Nat :=
  let place := digitChars.idxOf ch.toUpper
  if place < base then some place else none

/-- The number a token's digits stand for, most significant first; none where a character is no digit of the base. -/
def numberOf (base : Nat) (digits : List Char) : Option Nat :=
  (digits.mapM (digitValue base)).map fun values => values.foldl (fun n v => base * n + v) 0

/-- A number, decimal or `0x`-prefixed hexadecimal, with at least one digit (30_encoding.md R85). -/
def parseNumber : List Char → Option Nat
  | [] => none
  | ['0', 'x'] => none
  | '0' :: 'x' :: digits => numberOf 16 digits
  | digits => numberOf 10 digits

/-- Numbers, each of its own token. -/
def parseNumbers : List (List Char) → Option (List Nat)
  | [] => some []
  | tok :: rest =>
    match parseNumber tok, parseNumbers rest with
    | some n, some ns => some (n :: ns)
    | _, _ => none

/-- The operand of `.word42`: `0x` and 11 hexadecimal digits (30_encoding.md R85). -/
def parseWord42 : List Char → Option Nat
  | '0' :: 'x' :: digits => if digits.length = 11 then numberOf 16 digits else none
  | _ => none

/-- The text before the first `=` and the text after it. -/
def splitEquals : List Char → Option (List Char × List Char)
  | [] => none
  | ch :: rest =>
    if ch = '=' then some ([], rest)
    else
      match splitEquals rest with
      | some (key, value) => some (ch :: key, value)
      | none => none

/-- One `key=value` operand (30_encoding.md R85). -/
def parseArg (tok : List Char) : Option ConfigArg :=
  match splitEquals tok with
  | none => none
  | some (key, value) =>
    if key = "start".toList then (parseNumber value).map .start
    else if key = "end".toList then (parseNumber value).map .stop
    else if key = "maxp".toList then (parseNumber value).map .maxp
    else if key = "alg".toList then
      if value = "NONE".toList then some (.alg .none)
      else if value = "XOR".toList then some (.alg .xor)
      else if value = "CRC16".toList then some (.alg .crc16)
      else none
    else if key = "lw".toList then
      if value = "1".toList then some (.lw .one)
      else if value = "2".toList then some (.lw .two)
      else none
    else if key = "lc".toList then
      if value = "PAYLOAD_ONLY".toList then some (.lc .payloadOnly)
      else if value = "PAYLOAD_PLUS_COMMAND".toList then some (.lc .payloadPlusCommand)
      else none
    else none

/-- Operands, each of its own token. -/
def parseArgs : List (List Char) → Option (List ConfigArg)
  | [] => some []
  | tok :: rest =>
    match parseArg tok, parseArgs rest with
    | some a, some as => some (a :: as)
    | _, _ => none

/-- The text of a line before its comment (30_encoding.md R85). -/
def dropComment : List Char → List Char
  | [] => []
  | ch :: rest => if ch = ';' then [] else ch :: dropComment rest

/-- The tokens of a line: runs of characters between blanks and commas (log 14). -/
def tokens : List Char → List (List Char)
  | [] => []
  | ch :: rest =>
    if ch = ' ' ∨ ch = '\t' ∨ ch = '\r' ∨ ch = ',' then [] :: tokens rest
    else
      match tokens rest with
      | tok :: toks => (ch :: tok) :: toks
      | [] => [[ch]]

/-- The line its tokens stand for: none where it is blank (30_encoding.md R85, R86). -/
def parseTokens : List (List Char) → Except AsmError (Option AsmLine)
  | [] => .ok none
  | op :: operands =>
    let line : Option AsmLine :=
      if op = "FEED".toList then
        match parseNumbers operands with
        | some [n] => some (.feed n)
        | _ => none
      else if op = "RESET".toList then (if operands = [] then some .reset else none)
      else if op = "CONFIGURE".toList then (parseArgs operands).map .configure
      else if op = ".word42".toList then
        match operands with
        | [tok] => (parseWord42 tok).map .word42
        | _ => none
      else if op = "FEEDS".toList then (parseNumbers operands).map .feeds
      else if op = "CONFIGURE_R200".toList then (parseArgs operands).map .configureR200
      else if op = "CONFIGURE_YRM100X".toList then (parseArgs operands).map .configureYrm100x
      else none
    match line with
    | some l => .ok (some l)
    | none => .error .malformed

/-- The words of one line of text; a blank or comment line has none (30_encoding.md R85). -/
def assembleText (p : Params) (text : List Char) : Except AsmError (List Word) :=
  match parseTokens ((tokens (dropComment text)).filter (fun tok => decide (tok ≠ []))) with
  | .error e => .error e
  | .ok none => .ok []
  | .ok (some line) => assembleLine p line

/-- The words of a program, one command per line (30_encoding.md R85). -/
def assembleProgram (p : Params) : List (List Char) → Except AsmError (List Word)
  | [] => .ok []
  | line :: rest =>
    match assembleText p line, assembleProgram p rest with
    | .ok ws, .ok more => .ok (ws ++ more)
    | .error e, _ => .error e
    | _, .error e => .error e

end Sys2Proof.Machine
end

