-- ==== Sys2Proof/Machine/FrameCheck.lean ====
section
/-! DEFINITION. The frame check and the reference encoder (41_frame_check.md): pure functions, not commands. -/

namespace Sys2Proof.Machine

/-- The decode errors (41_frame_check.md R124; the names are those of 60_exceptions.md R191). -/
inductive DecodeError where
  | truncated
  | badChecksum
  | lengthMismatch
  | unexpectedStartEnd
  deriving DecidableEq, Repr

/-- The code of a decode error (60_exceptions.md R191). -/
def decodeErrorCode : DecodeError → BitVec 4
  | .truncated => 1
  | .badChecksum => 2
  | .lengthMismatch => 3
  | .unexpectedStartEnd => 4

/-- The error of the reference encoder (41_frame_check.md R129). -/
inductive EncodeError where
  | parametersTooLong
  deriving DecidableEq, Repr

/-- `s[i..j)` (00_scope.md R10). -/
def slice (raw : List Byte) (i j : Nat) : List Byte := (raw.drop i).take (j - i)

/-- `decode(d, raw)` (41_frame_check.md R124), its checks in the rule's order. The length checks before each indexing
make the default of `getD` unused. -/
def frameDecode (p : Params) (d : Dialect) (raw : List Byte) : Except DecodeError Frame :=
  if raw.length = 0 then .error .truncated
  else if raw.getD 0 0 ≠ d.startByte then .error .unexpectedStartEnd
  else
    let h := 2 + lengthBytes d.lw
    if raw.length < h then .error .truncated
    else
      match paramCount d.lc (lengthValue (slice raw 2 h)) with
      | none => .error .lengthMismatch
      | some n =>
        let t := frameLength d n.toNat
        let params := slice raw h (h + n.toNat)
        let csum := slice raw (h + n.toNat) (h + n.toNat + checksumWidth d.alg)
        if raw.length < t then .error .truncated
        else if t < raw.length then .error .lengthMismatch
        else if raw.getD (t - 1) 0 ≠ d.endByte then .error .unexpectedStartEnd
        else if csum ≠ computeChecksum p d.alg (slice raw 1 (h + n.toNat)) then .error .badChecksum
        else .ok ⟨raw.getD 1 0, params, csum⟩

/-- The length `encode` declares for `count` parameters (41_frame_check.md R128). -/
def declaredLength : LengthPolicy → Nat → Nat
  | .payloadOnly, count => count
  | .payloadPlusCommand, count => count + 1

/-- `encode(d, cmd, params)` (41_frame_check.md R128). -/
def frameEncode (p : Params) (d : Dialect) (cmd : Byte) (params : List Byte) : Except EncodeError (List Byte) :=
  let l := declaredLength d.lc params.length
  if 2 ^ (8 * lengthBytes d.lw) - 1 < l then .error .parametersTooLong
  else
    let span := checksumSpan d cmd (BitVec.ofNat 16 l) params
    .ok (d.startByte :: (span ++ computeChecksum p d.alg span ++ [d.endByte]))

end Sys2Proof.Machine
end

