-- ==== Sys2Proof/Safety.lean ====
section
/-! DEFINITION. What counts as a run with no misuse (60_exceptions.md R193), and the invariant that holds of every state a
run from power-on reset reaches. -/

namespace Sys2Proof.Machine

/-- No interface fault is recorded: the premise a claim about a run takes (60_exceptions.md R193). -/
abbrev State.NoFaultRecorded (s : State) : Prop := s.fUnconf = false ∧ s.fCfg = false ∧ s.fOp = false

/-- No frame attempt is in progress (42_stream.md R148). -/
abbrev State.AttemptIdle (s : State) : Prop := s.k = 0#16 ∧ s.c = 0#32 ∧ s.L = 0#16 ∧ s.P = 0#16 ∧ s.rx = []

/-- The declared length was accepted (42_stream.md R144): `P` is the count it gives and is within the budget, and the
length field of one byte declares less than 256 (30_encoding.md R81). -/
abbrev State.LengthAccepted (s : State) : Prop :=
  paramCount s.cfg.lc s.L = some s.P ∧ s.P ≤ s.cfg.maxPayload ∧ (s.cfg.lw = .one → s.L < 256#16)

/-- Indices below `n` of the buffer have been written (10_state.md R29). -/
abbrev State.Written (s : State) (n : Nat) : Prop := ∀ i < n, (Memory.read s.buf i).isSome = true

/-- What the counters hold in each resynchronizer state (10_state.md R25, R26, R28, R30). -/
def State.Phase (s : State) : Prop :=
  match s.st with
  | .unconfigured => s.AttemptIdle
  | .seekingStart => s.AttemptIdle
  | .readingLength =>
    s.k.toNat ≤ lengthBytes s.cfg.lw ∧ s.c.toNat = 1 + s.k.toNat ∧ s.P = 0#16 ∧ s.rx = [] ∧ s.L < 256#16
      ∧ (s.k.toNat ≤ 1 → s.L = 0#16)
  | .readingPayload =>
    s.k < s.P ∧ s.c.toNat = 2 + lengthBytes s.cfg.lw + s.k.toNat ∧ s.rx = [] ∧ s.LengthAccepted
      ∧ s.Written s.k.toNat
  | .readingChecksumEnd =>
    s.k.toNat ≤ checksumWidth s.cfg.alg ∧ s.rx.length = s.k.toNat
      ∧ s.c.toNat = 2 + lengthBytes s.cfg.lw + s.P.toNat + s.k.toNat ∧ s.LengthAccepted ∧ s.Written s.P.toNat

/-- The invariant of every reachable state. -/
structure State.Inv (s : State) : Prop where
  /-- `MAX_PAYLOAD` is in the range 00_scope.md R8 gives it. -/
  params_ok : s.params.Ok
  /-- The buffer keeps its canonical form. -/
  buf_wf : Memory.wf s.buf = true
  /-- No index at or above `BUF_DEPTH` is ever written (10_state.md R29). -/
  buf_bound : ∀ e ∈ s.buf, e.1 < s.params.bufDepth.toNat
  /-- A legal configuration is loaded exactly outside UNCONFIGURED (10_state.md R23, R24). -/
  valid_iff : s.cfgValid = true ↔ s.st ≠ .unconfigured
  /-- A loaded budget fits the buffer (43_control.md R172). -/
  budget : s.cfgValid = true → s.cfg.maxPayload ≤ s.params.bufDepth
  /-- A garbage run is counted in SEEKING_START only (42_stream.md R148). -/
  garbage : s.st ≠ .seekingStart → s.g = 0#32
  /-- The counters fit the state. -/
  phase : s.Phase

/-- `raw` is one frame attempt from `s` to `t`: its first byte is the start byte, its last byte returns the block to
SEEKING_START, and no earlier one does (42_stream.md R156). -/
def AttemptEnds (raw : List Byte) (s t : State) : Prop :=
  s.st = .seekingStart ∧ raw.head? = some s.cfg.startByte ∧ feedAll raw s = .next t ∧ t.st = .seekingStart
    ∧ ∀ n u, 0 < n → n < raw.length → feedAll (raw.take n) s = .next u → u.st ≠ .seekingStart

/-- What the event that ends an attempt must say of the attempt's bytes (42_stream.md R156). -/
def EventAgrees (s : State) (raw : List Byte) : Event → Prop
  | .frame f => frameDecode s.params s.cfg raw = .ok f
  | .resync n .lengthMismatch =>
    n.toNat = raw.length ∧ frameDecode s.params s.cfg raw = .error .lengthMismatch
  | .resync n .unexpectedStartEnd =>
    n.toNat = raw.length ∧ frameDecode s.params s.cfg raw = .error .unexpectedStartEnd
  | .resync n .badChecksum =>
    n.toNat = raw.length ∧ frameDecode s.params s.cfg raw = .error .badChecksum
  | .resync n .budgetExceeded =>
    n.toNat = raw.length ∧ raw.length = 2 + lengthBytes s.cfg.lw ∧
      ∃ p, paramCount s.cfg.lc (lengthValue (slice raw 2 raw.length)) = some p ∧ s.cfg.maxPayload < p
  | .resync _ .noStart => False

/-- The bytes of the stream an event stands for: those a Resync counts (42_stream.md R151), or the frame's length
(41_frame_check.md R123). -/
def eventBytes (d : Dialect) : Event → Nat
  | .frame f => frameLength d f.params.length
  | .resync n _ => n.toNat

/-- The checksum algorithms under which a changed byte is always detected (40_checksum.md R108, 90_conflicts.md C4). -/
def DetectsByteChange (p : Params) (a : Alg) : Prop := a = .xor ∨ (a = .crc16 ∧ p.crc16Poly.getLsbD 0 = true)

end Sys2Proof.Machine
end

