-- ==== Sys2Proof/Certificates/Slice0/Obligations.lean ====
section
/-! DEFINITION. The statements for the provers. -/

open Sys2Proof Sys2Proof.Machine

/-! ## The command channel and the encodings -/

/-- One step takes the next command word of the channel and performs the command it decodes to, every 42-bit word
included (00_scope.md R7, 30_encoding.md R70). -/
def Obligations.StepPerformsDecodedCommand : Prop :=
  ∀ (s : State) (w : Word) (rest : List Word), s.input = w :: rest →
    step s = exec (decode w) { s with input := rest }

/-- With no command presented a step changes nothing: the model's rendering of a block that waits (log 6;
60_exceptions.md R203). -/
def Obligations.StepWithoutCommandWaits : Prop :=
  ∀ s : State, s.input = [] → step s = .next s

/-- The worked encodings of 30_encoding.md R87: each word is the encoding of its command and decodes to it. -/
def Obligations.WorkedEncodingsDecode : Prop :=
  (decode 0x000000000AA = .feed 0 0xAA ∧ encode (.feed 0 0xAA) = 0x000000000AA) ∧
  (decode 0x0000000007E = .feed 0 0x7E ∧ encode (.feed 0 0x7E) = 0x0000000007E) ∧
  (decode 0x10000000000 = .reset 0 ∧ encode (.reset 0) = 0x10000000000) ∧
  (decode 0x2004005DDAA = configureCommand ⟨0xAA, 0xDD, .xor, .two, .payloadOnly, 64⟩ ∧
    encode (configureCommand ⟨0xAA, 0xDD, .xor, .two, .payloadOnly, 64⟩) = 0x2004005DDAA) ∧
  (decode 0x20040067EBB = configureCommand ⟨0xBB, 0x7E, .crc16, .two, .payloadOnly, 64⟩ ∧
    encode (configureCommand ⟨0xBB, 0x7E, .crc16, .two, .payloadOnly, 64⟩) = 0x20040067EBB)

/-- Decoding the encoding of any command gives the command, with every operand at every value its field admits (30_encoding.md
R72 to R74). That a FEED or RESET with nonzero reserved bits is a command with an encoding is the model's choice
(log 9). -/
def Obligations.DecodeOfEncodeIsIdentity : Prop :=
  ∀ i : Instr, decode (encode i) = i

/-- Every 42-bit word is the encoding of the command it decodes to, so the decode drops no bit. That a FEED or RESET word
with nonzero reserved bits decodes to a command that keeps them, where `decode_cmd` of 30_encoding.md R79 gives F_OP, is
the model's choice (log 9). -/
def Obligations.EncodeOfDecodeIsIdentity : Prop :=
  ∀ w : Word, encode (decode w) = w

/-- The decode by op and arg (30_encoding.md R79): each field comes from the bits R72 to R74 give it.
That a FEED and a RESET keep their reserved bits is the model's choice (log 9). -/
def Obligations.DecodeReadsOpAndArgFields : Prop :=
  ∀ (op : BitVec 2) (arg : BitVec 40), decode (op ++ arg) =
    if op = 0#2 then .feed (arg.extractLsb' 8 32) (arg.extractLsb' 0 8)
    else if op = 1#2 then .reset arg
    else if op = 2#2 then
      .configure (arg.extractLsb' 0 8) (arg.extractLsb' 8 8) (arg.extractLsb' 16 2) (arg.extractLsb' 18 1)
        (arg.extractLsb' 19 1) (arg.extractLsb' 20 4) (arg.extractLsb' 24 16)
    else .reservedOp3 arg

/-- A word with the reserved op, or a FEED or RESET with a nonzero reserved bit, sets `f_op` and does nothing else,
whatever the state (43_control.md R175, R176; 60_exceptions.md R195 item 1). -/
def Obligations.ReservedWordsOnlySetOpFault : Prop :=
  ∀ (op : BitVec 2) (arg : BitVec 40) (s : State),
    (op = 3#2 ∨ (op = 0#2 ∧ arg.extractLsb' 8 32 ≠ 0#32) ∨ (op = 1#2 ∧ arg ≠ 0#40)) →
    exec (decode (op ++ arg)) s = .next { s with fOp := true }

/-! ## Power-on, RESET, CONFIGURE and the reserved command -/

/-- What power-on reset leaves (70_reset_and_hazards.md R210), in every element the spec gives a value. -/
def Obligations.PowerOnResetValues : Prop :=
  State.reset.cfgValid = false ∧ State.reset.st = .unconfigured ∧ State.reset.k = 0 ∧ State.reset.c = 0 ∧
  State.reset.L = 0 ∧ State.reset.P = 0 ∧ State.reset.rx = [] ∧ State.reset.g = 0 ∧ State.reset.NoFaultRecorded ∧
  State.reset.events = [] ∧ status State.reset = 0x0000

/-- RESET (43_control.md R170): its whole effect; RESET twice is RESET once; RESET in UNCONFIGURED leaves the block
UNCONFIGURED. -/
def Obligations.ResetRestartsResynchronizer : Prop :=
  (∀ s : State, exec (.reset 0#40) s = .next { s with
      st := if s.cfgValid = true then .seekingStart else .unconfigured
      k := 0#16, c := 0#32, L := 0#16, P := 0#16, rx := [], g := 0#32 }) ∧
  (∀ s t : State, exec (.reset 0#40) s = .next t → exec (.reset 0#40) t = .next t) ∧
  (∀ s : State, s.Inv → s.st = .unconfigured → exec (.reset 0#40) s = .next s)

/-- A CONFIGURE whose operands are legal by 43_control.md R172 loads every field of the Dialect and restarts the
resynchronizer (R171, R174). -/
def Obligations.LegalConfigureLoadsDialect : Prop :=
  ∀ (s : State) (start stop : Byte) (alg : BitVec 2) (lw lc : BitVec 1) (rsv : BitVec 4) (m : BitVec 16),
    alg ≠ 3#2 → rsv = 0#4 → m ≤ s.params.bufDepth →
    ∃ d : Dialect, d.startByte = start ∧ d.endByte = stop ∧ algCode d.alg = alg ∧ widthCode d.lw = lw ∧
      policyCode d.lc = lc ∧ d.maxPayload = m ∧
      exec (.configure start stop alg lw lc rsv m) s = .next { s with
        cfg := d, cfgValid := true, st := .seekingStart
        k := 0#16, c := 0#32, L := 0#16, P := 0#16, rx := [], g := 0#32 }

/-- A CONFIGURE whose operands are illegal by 43_control.md R172 sets `f_cfg` and leaves the block UNCONFIGURED with its
stream state cleared (R173). -/
def Obligations.IllegalConfigureLeavesUnconfigured : Prop :=
  ∀ (s : State) (start stop : Byte) (alg : BitVec 2) (lw lc : BitVec 1) (rsv : BitVec 4) (m : BitVec 16),
    (alg = 3#2 ∨ rsv ≠ 0#4 ∨ s.params.bufDepth < m) →
    exec (.configure start stop alg lw lc rsv m) s = .next { s with
      fCfg := true, cfgValid := false, st := .unconfigured
      k := 0#16, c := 0#32, L := 0#16, P := 0#16, rx := [], g := 0#32 }

/-- The reserved op 3 sets `f_op` and nothing else, with any `arg` (43_control.md R175). -/
def Obligations.ReservedOpSetsOpFault : Prop :=
  ∀ (arg : BitVec 40) (s : State), exec (.reservedOp3 arg) s = .next { s with fOp := true }

/-- An unconfigured block leaves UNCONFIGURED by a legal CONFIGURE only (43_control.md R173, 70_reset_and_hazards.md
R212). -/
def Obligations.OnlyLegalConfigureLeavesUnconfigured : Prop :=
  ∀ (i : Instr) (s t : State), s.st = .unconfigured → s.cfgValid = false → exec i s = .next t →
    (t.st = .unconfigured ∧ t.cfgValid = false) ∨
    ∃ start stop alg lw lc m, i = .configure start stop alg lw lc 0#4 m ∧ alg ≠ 3#2 ∧ m ≤ s.params.bufDepth

/-- After a CONFIGURE and any commands that are no CONFIGURE, `cfg_valid` says whether that CONFIGURE was legal; before
the first CONFIGURE it keeps its power-on value 0 (10_state.md R23). -/
def Obligations.CfgValidTellsLastConfigureLegal : Prop :=
  ∀ (js : List Instr), (∀ j ∈ js, ∀ start stop alg lw lc rsv m, j ≠ .configure start stop alg lw lc rsv m) →
    (∀ t, execAll js State.reset = .next t → t.cfgValid = false) ∧
    (∀ (s t : State) (start stop : Byte) (alg : BitVec 2) (lw lc : BitVec 1) (rsv : BitVec 4) (m : BitVec 16),
      execAll (.configure start stop alg lw lc rsv m :: js) s = .next t →
      (t.cfgValid = true ↔ alg ≠ 3#2 ∧ rsv = 0#4 ∧ m ≤ s.params.bufDepth))

/-- `cfg` and `cfg_valid` change only by CONFIGURE, and every CONFIGURE, legal or not, leaves no partial attempt and no
garbage run (43_control.md R177). -/
def Obligations.ConfigurationChangesOnlyByConfigure : Prop :=
  ∀ (i : Instr) (s t : State), exec i s = .next t →
    ((∃ start stop alg lw lc rsv m, i = .configure start stop alg lw lc rsv m) ∧ t.AttemptIdle ∧ t.g = 0#32 ∧
      t.st = (if t.cfgValid = true then .seekingStart else .unconfigured)) ∨
    ((∀ start stop alg lw lc rsv m, i ≠ .configure start stop alg lw lc rsv m) ∧ t.cfg = s.cfg ∧
      t.cfgValid = s.cfgValid)

/-- Both presets are legal CONFIGURE words with the fields of 43_control.md R178, and from power-on each gives STATUS
0x0009, which is what the boot order of 70_reset_and_hazards.md R213 requires. -/
def Obligations.PresetsConfigureFromPowerOn : Prop :=
  ∀ d : Dialect, (d = dialectR200 State.reset.params.presetCsumAlg State.reset.params.maxPayload ∨
      d = dialectYrm100x State.reset.params.presetCsumAlg State.reset.params.maxPayload) →
    ∃ t, exec (configureCommand d) State.reset = .next t ∧ t.cfg = d ∧ status t = 0x0009

/-! ## FEED, state by state -/

/-- A FEED in UNCONFIGURED sets `f_unconf` and does nothing else (42_stream.md R141). -/
def Obligations.FeedUnconfiguredSetsFault : Prop :=
  ∀ (s : State) (b : Byte), s.st = .unconfigured → exec (.feed 0#32 b) s = .next { s with fUnconf := true }

/-- A FEED in SEEKING_START (42_stream.md R142): the start byte reports the garbage run and opens an attempt, any other
byte is counted, saturating at `2^32 - 1`. -/
def Obligations.FeedSeekingStart : Prop :=
  ∀ (s : State) (b : Byte), s.st = .seekingStart → exec (.feed 0#32 b) s = .next (
    if b = s.cfg.startByte then { s with
      events := if s.g = 0#32 then s.events else s.events ++ [.resync s.g .noStart]
      g := 0#32, c := 1#32, L := 0#16, P := 0#16, rx := [], k := 0#16, st := .readingLength }
    else { s with g := if s.g = 0xFFFFFFFF#32 then s.g else s.g + 1#32 })

/-- A FEED in READING_LENGTH before the last length byte (42_stream.md R143): the command code first, then length bytes,
most significant first. -/
def Obligations.FeedReadsCommandCodeAndLength : Prop :=
  ∀ (s : State) (b : Byte), s.st = .readingLength → s.k.toNat ≠ lengthBytes s.cfg.lw →
    exec (.feed 0#32 b) s = .next (
      if s.k = 0#16 then { s with c := s.c + 1#32, cmd := b, k := 1#16 }
      else { s with c := s.c + 1#32, L := (s.L <<< 8) ||| b.setWidth 16, k := s.k + 1#16 })

/-- The FEED of the last length byte (42_stream.md R144): the declared length against the policy, then the budget; in
every state of the invariant the reported count is `2 + N`. -/
def Obligations.FeedChecksDeclaredLength : Prop :=
  ∀ (s : State) (b : Byte) (l p : BitVec 16), s.st = .readingLength → s.k.toNat = lengthBytes s.cfg.lw →
    l = (s.L <<< 8) ||| b.setWidth 16 → p = (if s.cfg.lc = .payloadOnly then l else l - 1#16) →
    exec (.feed 0#32 b) s = .next (
      if s.cfg.lc = .payloadPlusCommand ∧ l = 0#16 then { s with
        events := s.events ++ [.resync (s.c + 1#32) .lengthMismatch]
        st := .seekingStart, k := 0#16, c := 0#32, L := 0#16, P := 0#16, rx := [] }
      else if s.cfg.maxPayload < p then { s with
        events := s.events ++ [.resync (s.c + 1#32) .budgetExceeded]
        st := .seekingStart, k := 0#16, c := 0#32, L := 0#16, P := 0#16, rx := [] }
      else { s with
        c := s.c + 1#32, L := l, P := p, k := 0#16
        st := if 0#16 < p then .readingPayload else .readingChecksumEnd }) ∧
    (s.Inv → (s.c + 1#32).toNat = 2 + lengthBytes s.cfg.lw)

/-- A FEED in READING_PAYLOAD stores the byte at index `k` and changes no other index (42_stream.md R145). -/
def Obligations.FeedBuffersParameterByte : Prop :=
  ∀ (s : State) (b : Byte), s.st = .readingPayload → s.k < s.params.bufDepth →
    ∃ t, exec (.feed 0#32 b) s = .next t ∧ Memory.read t.buf s.k.toNat = some b ∧
      (∀ a, a ≠ s.k.toNat → Memory.read t.buf a = Memory.read s.buf a) ∧
      { t with buf := s.buf } = { s with
        c := s.c + 1#32
        k := if s.k + 1#16 = s.P then 0#16 else s.k + 1#16
        st := if s.k + 1#16 = s.P then .readingChecksumEnd else .readingPayload }

/-- A FEED in READING_CHECKSUM_END before the end position appends the byte to `rx` (42_stream.md R146). -/
def Obligations.FeedTakesChecksumByte : Prop :=
  ∀ (s : State) (b : Byte), s.st = .readingChecksumEnd → s.k.toNat < checksumWidth s.cfg.alg →
    exec (.feed 0#32 b) s = .next { s with c := s.c + 1#32, rx := s.rx ++ [b], k := s.k + 1#16 }

/-- The FEED at the end position (42_stream.md R147): a wrong end byte, else a wrong checksum, else the frame; then the
return to SEEKING_START (R148). In every state of the invariant the count is the frame length. -/
def Obligations.FeedEndsFrame : Prop :=
  ∀ (s : State) (b : Byte) (params : List Byte), s.st = .readingChecksumEnd → checksumWidth s.cfg.alg ≤ s.k.toNat →
    s.P ≤ s.params.bufDepth → params.length = s.P.toNat →
    (∀ j (h : j < params.length), Memory.read s.buf j = some params[j]) →
    exec (.feed 0#32 b) s = .next { s with
      events := s.events ++ [
        if b ≠ s.cfg.endByte then .resync (s.c + 1#32) .unexpectedStartEnd
        else if s.rx ≠ computeChecksum s.params s.cfg.alg (s.cmd :: (lenBytes s.cfg.lw s.L ++ params)) then
          .resync (s.c + 1#32) .badChecksum
        else .frame ⟨s.cmd, params, s.rx⟩]
      st := .seekingStart, k := 0#16, c := 0#32, L := 0#16, P := 0#16, rx := [] } ∧
    (s.Inv → (s.c + 1#32).toNat = 3 + lengthBytes s.cfg.lw + s.P.toNat + checksumWidth s.cfg.alg)

/-! ## What the commands leave unchanged -/

/-- The frame of FEED, in every state and with any reserved bits: the parameters, the configuration, the channel and
`f_cfg` never change; a flag changes only where the spec says so; the buffer changes at index `k` at most, and in
READING_PAYLOAD only; the event output only grows. -/
def Obligations.FeedFrame : Prop :=
  ∀ (s t : State) (rsv : BitVec 32) (b : Byte), exec (.feed rsv b) s = .next t →
    t.params = s.params ∧ t.cfg = s.cfg ∧ t.cfgValid = s.cfgValid ∧ t.input = s.input ∧ t.fCfg = s.fCfg ∧
    (rsv ≠ 0#32 → { t with fOp := s.fOp } = s) ∧ (rsv = 0#32 → t.fOp = s.fOp) ∧
    (s.st ≠ .unconfigured → t.fUnconf = s.fUnconf) ∧
    (¬ (rsv = 0#32 ∧ s.st = .readingLength ∧ s.k = 0#16) → t.cmd = s.cmd) ∧
    (s.st ≠ .seekingStart → t.g = s.g) ∧
    (∀ a, (rsv = 0#32 → s.st = .readingPayload → a ≠ s.k.toNat) → Memory.read t.buf a = Memory.read s.buf a) ∧
    s.events <+: t.events

/-- The frame of RESET, CONFIGURE and the reserved command: the buffer, the received command code, the event output, the
channel, the parameters and `f_unconf` never change, so a dropped attempt or garbage run leaves no event
(70_reset_and_hazards.md R211, R214, R215). -/
def Obligations.ControlCommandsFrame : Prop :=
  ∀ (i : Instr) (s t : State), (∀ rsv b, i ≠ .feed rsv b) → exec i s = .next t →
    (∀ a, Memory.read t.buf a = Memory.read s.buf a) ∧ t.cmd = s.cmd ∧ t.events = s.events ∧ t.input = s.input ∧
    t.params = s.params ∧ t.fUnconf = s.fUnconf

/-- Each flag after a command is what it was, or is set by exactly the misuse 60_exceptions.md R193 gives it: no stream
error sets one (R190) and no command clears one (10_state.md R31). -/
def Obligations.FlagsRecordExactlyTheMisuse : Prop :=
  ∀ (i : Instr) (s t : State), exec i s = .next t →
    (t.fUnconf = true ↔ s.fUnconf = true ∨ (s.st = .unconfigured ∧ ∃ b, i = .feed 0#32 b)) ∧
    (t.fCfg = true ↔ s.fCfg = true ∨ ∃ start stop alg lw lc rsv m,
      i = .configure start stop alg lw lc rsv m ∧ (alg = 3#2 ∨ rsv ≠ 0#4 ∨ s.params.bufDepth < m)) ∧
    (t.fOp = true ↔ s.fOp = true ∨ (∃ arg, i = .reservedOp3 arg) ∨ (∃ rsv b, i = .feed rsv b ∧ rsv ≠ 0#32) ∨
      ∃ rsv, i = .reset rsv ∧ rsv ≠ 0#40)

/-- A command emits at most one event, and only a FEED that ends a garbage run, completes a length field or takes the
byte at the end position emits one (42_stream.md R152). -/
def Obligations.AtMostOneEventPerCommand : Prop :=
  ∀ (i : Instr) (s t : State), exec i s = .next t →
    t.events = s.events ∨
    ∃ e b, t.events = s.events ++ [e] ∧ i = .feed 0#32 b ∧
      ((s.st = .seekingStart ∧ b = s.cfg.startByte ∧ s.g ≠ 0#32) ∨
        (s.st = .readingLength ∧ s.k.toNat = lengthBytes s.cfg.lw) ∨
        (s.st = .readingChecksumEnd ∧ checksumWidth s.cfg.alg ≤ s.k.toNat))

/-- What an emitted event says (42_stream.md R150, R151): a frame's parameters are within the budget and its checksum
bytes are the computed ones; a discard count is at least 1. -/
def Obligations.EmittedEventsAreMeaningful : Prop :=
  ∀ (i : Instr) (s t : State) (e : Event), s.Inv → exec i s = .next t → t.events = s.events ++ [e] →
    match e with
    | .frame f => f.cmd = s.cmd ∧ f.params.length = s.P.toNat ∧ f.params.length ≤ s.cfg.maxPayload.toNat ∧
        f.csum.length = checksumWidth s.cfg.alg ∧
        f.csum = computeChecksum s.params s.cfg.alg (checksumSpan s.cfg f.cmd s.L f.params)
    | .resync n _ => 1 ≤ n

/-- Inside an attempt no byte value is special: where the byte is a command code, a parameter or a checksum byte, where
the block stands next does not depend on it (42_stream.md R158). -/
def Obligations.NoByteIsSpecialInsideAttempt : Prop :=
  ∀ (s t1 t2 : State) (b1 b2 : Byte),
    ((s.st = .readingLength ∧ s.k = 0#16) ∨ s.st = .readingPayload ∨
      (s.st = .readingChecksumEnd ∧ s.k.toNat < checksumWidth s.cfg.alg)) →
    exec (.feed 0#32 b1) s = .next t1 → exec (.feed 0#32 b2) s = .next t2 →
    t1.st = t2.st ∧ t1.k = t2.k ∧ t1.c = t2.c ∧ t1.L = t2.L ∧ t1.P = t2.P ∧ t1.g = t2.g ∧ t1.events = t2.events ∧
      t1.st ≠ .seekingStart

/-! ## Completion and the invariant -/

/-- A command answers a next state except where a FEED needs a buffer index that does not exist or that nothing has
written; then it stops with the fault that names such an index. These stops are the model's own choice (logs 3 and 11). -/
def Obligations.CommandStopsExactlyOnMissingBufferByte : Prop :=
  (∀ (i : Instr) (s : State), (∃ t, exec i s = .next t) ↔
    ¬ ∃ b, i = .feed 0#32 b ∧
      ((s.st = .readingPayload ∧ s.params.bufDepth ≤ s.k) ∨
        (s.st = .readingChecksumEnd ∧ checksumWidth s.cfg.alg ≤ s.k.toNat ∧ b = s.cfg.endByte ∧
          ∃ j < s.P.toNat, s.params.bufDepth.toNat ≤ j ∨ Memory.read s.buf j = none))) ∧
  (∀ (i : Instr) (s : State) (j : Nat),
    (exec i s = .fault (.bufferIndex j) → s.params.bufDepth.toNat ≤ j) ∧
    (exec i s = .fault (.bufferUnwritten j) → j < s.params.bufDepth.toNat ∧ Memory.read s.buf j = none)) ∧
  ∀ (i : Instr) (s : State) (r : Refusal), exec i s ≠ .refused r

/-- The invariant holds of the state after power-on reset. -/
def Obligations.InvariantHoldsAtReset : Prop := State.reset.Inv

/-- Every step keeps the invariant, from every state that has it. -/
def Obligations.InvariantKeptByEveryStep : Prop :=
  ∀ s t : State, s.Inv → step s = .next t → t.Inv

/-- In every state of the invariant every command completes and keeps the invariant. -/
def Obligations.EveryCommandCompletesUnderInvariant : Prop :=
  ∀ (i : Instr) (s : State), s.Inv → ∃ t, exec i s = .next t ∧ t.Inv

/-- Whatever commands the host presents after power-on, no step stops: stream errors and interface faults never stop the
block (60_exceptions.md R190, R193). The list of words presented is the model's channel (log 5), and a step beyond its
last word waits (log 6): both are the model's choice. -/
def Obligations.NoRunFromPowerOnStops : Prop :=
  ∀ (ws : List Word) (n : Nat),
    ∃ t : State, Host.Core.run Sys2Proof.core n ({ State.reset with input := ws } : State) = .next t ∧ t.Inv ∧
      t.input = ws.drop n

/-! ## STATUS and the codes -/

/-- The STATUS word field by field (10_state.md R33). -/
def Obligations.StatusWordFields : Prop :=
  ∀ s : State,
    (status s).extractLsb' 0 3 = rxCode s.st ∧ (status s).getLsbD 3 = s.cfgValid ∧ (status s).getLsbD 4 = s.fUnconf ∧
    (status s).getLsbD 5 = s.fCfg ∧ (status s).getLsbD 6 = s.fOp ∧ (status s).getLsbD 7 = decide (0#32 < s.g) ∧
    (status s).extractLsb' 8 8 = 0

/-- The Resync reason codes (60_exceptions.md R191). -/
def Obligations.ReasonCodesAsNumbered : Prop :=
  reasonCode .badChecksum = 2 ∧ reasonCode .lengthMismatch = 3 ∧ reasonCode .unexpectedStartEnd = 4 ∧
  reasonCode .budgetExceeded = 5 ∧ reasonCode .noStart = 6 ∧ decodeErrorCode .truncated = 1 ∧
  decodeErrorCode .badChecksum = 2 ∧ decodeErrorCode .lengthMismatch = 3 ∧ decodeErrorCode .unexpectedStartEnd = 4

/-! ## The checksum unit -/

/-- The checksum has as many bytes as its width, 0, 1 or 2 (40_checksum.md R101). -/
def Obligations.ChecksumHasItsWidth : Prop :=
  ∀ (p : Params) (span : List Byte), (computeChecksum p .none span).length = 0 ∧
    (computeChecksum p .xor span).length = 1 ∧ (computeChecksum p .crc16 span).length = 2 ∧
    ∀ a, (computeChecksum p a span).length = checksumWidth a

/-- The XOR checksum does not depend on the order of the bytes (40_checksum.md R103). -/
def Obligations.XorChecksumIgnoresOrder : Prop :=
  ∀ s1 s2 : List Byte, s1.Perm s2 → xor8 s1 = xor8 s2

/-- Under XOR, and under CRC16 with a generator whose constant term is 1, changing one byte of the span to a different
value changes the checksum (40_checksum.md R108 (b), (e)). -/
def Obligations.OneByteChangeChangesChecksum : Prop :=
  ∀ (p : Params) (a : Alg) (span : List Byte) (i : Nat) (x : Byte), DetectsByteChange p a →
    i < span.length → span[i]? ≠ some x → computeChecksum p a (span.set i x) ≠ computeChecksum p a span

/-- Under XOR, the same change of two different bytes cancels (40_checksum.md R108 (c)). -/
def Obligations.EqualXorChangesOfTwoBytesCancel : Prop :=
  ∀ (p : Params) (span : List Byte) (i j : Nat) (m : Byte), i < span.length → j < span.length → i ≠ j →
    computeChecksum p .xor ((span.modify i (· ^^^ m)).modify j (· ^^^ m)) = computeChecksum p .xor span

/-! ## The frame check and the reference encoder -/

/-- `encode` fails exactly beyond the parameter counts of 41_frame_check.md R129. -/
def Obligations.EncodeFailsExactlyWhenTooLong : Prop :=
  ∀ (p : Params) (d : Dialect) (cmd : Byte) (params : List Byte),
    frameEncode p d cmd params = .error .parametersTooLong ↔
      (match d.lw, d.lc with
        | .one, .payloadOnly => 255
        | .one, .payloadPlusCommand => 254
        | .two, .payloadOnly => 65535
        | .two, .payloadPlusCommand => 65534) < params.length

/-- Decoding an encoded frame gives its command code, its parameters and the computed checksum (41_frame_check.md
R130). -/
def Obligations.FrameDecodeOfFrameEncode : Prop :=
  ∀ (p : Params) (d : Dialect) (cmd : Byte) (params raw : List Byte), frameEncode p d cmd params = .ok raw →
    frameDecode p d raw = .ok ⟨cmd, params, computeChecksum p d.alg
      (checksumSpan d cmd (BitVec.ofNat 16 (declaredLength d.lc params.length)) params)⟩

/-- `decode` accepts exactly the encodings: a slice that decodes to a frame is the encoding of its command code and
parameters, and the frame carries the computed checksum (41_frame_check.md R125, R127). -/
def Obligations.FrameDecodeAcceptsExactlyEncodings : Prop :=
  ∀ (p : Params) (d : Dialect) (raw : List Byte) (f : Frame), frameDecode p d raw = .ok f ↔
    frameEncode p d f.cmd f.params = .ok raw ∧
    f.csum = computeChecksum p d.alg
      (checksumSpan d f.cmd (BitVec.ofNat 16 (declaredLength d.lc f.params.length)) f.params)

/-- `decode` does not apply the byte budget (41_frame_check.md R126). -/
def Obligations.FrameDecodeIgnoresBudget : Prop :=
  ∀ (p : Params) (d : Dialect) (raw : List Byte) (m : BitVec 16),
    frameDecode p { d with maxPayload := m } raw = frameDecode p d raw

/-! ## The stream -/

/-- Feeding bytes in chunks is feeding them at once (42_stream.md R155). -/
def Obligations.FragmentationInvariance : Prop :=
  ∀ (chunks : List (List Byte)) (s : State), feedChunks chunks s = feedAll chunks.flatten s

/-- A garbage run counts its bytes, saturating at `2^32 - 1`, and changes nothing else (10_state.md R32). -/
def Obligations.GarbageRunCountsSaturating : Prop :=
  ∀ (s : State) (bs : List Byte), s.st = .seekingStart → (∀ b ∈ bs, b ≠ s.cfg.startByte) →
    feedAll bs s = .next { s with g := BitVec.ofNat 32 (min (s.g.toNat + bs.length) (2 ^ 32 - 1)) }

/-- The stream agrees with the frame check (42_stream.md R156). The event that ends an attempt says of the attempt's bytes
what the frame check says of them; conversely, a slice the frame check accepts, within the budget, is emitted as exactly
that frame. -/
def Obligations.StreamAgreesWithFrameCheck : Prop :=
  (∀ (s t : State) (raw : List Byte), s.Inv → AttemptEnds raw s t →
    ∃ e, t.events = (if s.g = 0#32 then s.events else s.events ++ [.resync s.g .noStart]) ++ [e] ∧
      EventAgrees s raw e) ∧
  (∀ (s : State) (raw : List Byte) (f : Frame), s.Inv → s.st = .seekingStart → s.g = 0#32 →
    frameDecode s.params s.cfg raw = .ok f → f.params.length ≤ s.cfg.maxPayload.toNat →
    ∃ t, feedAll raw s = .next t ∧ t.events = s.events ++ [.frame f] ∧ t.st = .seekingStart ∧ t.g = 0#32)

/-- In an attempt a FEED either takes the byte and the attempt goes on with no event, or ends the attempt with one event:
a frame, or a Resync that counts every byte of the attempt, the failing one included. Nothing of the attempt is kept
(42_stream.md R151 (a), R153, R161). -/
def Obligations.AttemptEndsWithItsOnlyEvent : Prop :=
  ∀ (s t : State) (b : Byte), s.st ≠ .unconfigured → s.st ≠ .seekingStart → exec (.feed 0#32 b) s = .next t →
    (t.st ≠ .unconfigured ∧ t.st ≠ .seekingStart ∧ t.events = s.events ∧ t.c = s.c + 1#32) ∨
    (t.st = .seekingStart ∧ t.AttemptIdle ∧ ∃ e, t.events = s.events ++ [e] ∧
      match e with
      | .frame f => s.st = .readingChecksumEnd ∧ b = s.cfg.endByte ∧ f.csum = s.rx
      | .resync n r => n = s.c + 1#32 ∧
        (s.st = .readingLength ∧ (r = .lengthMismatch ∨ r = .budgetExceeded) ∨
          s.st = .readingChecksumEnd ∧ (r = .unexpectedStartEnd ∨ r = .badChecksum)))

/-- Every byte fed to a configured block is accounted for: by a frame, by a Resync, by the attempt in progress or by the
pending garbage run, as long as the garbage counter cannot saturate (10_state.md R26, R32; 42_stream.md R151). -/
def Obligations.EveryByteIsAccountedFor : Prop :=
  ∀ (s t : State) (bs : List Byte), s.Inv → s.cfgValid = true → s.g.toNat + bs.length < 2 ^ 32 →
    feedAll bs s = .next t →
    ∃ es, t.events = s.events ++ es ∧
      (es.map (eventBytes s.cfg)).sum + t.c.toNat + t.g.toNat = s.c.toNat + s.g.toNat + bs.length

/-- Frames that follow one another with no byte between them are all emitted, in order (42_stream.md R159). -/
def Obligations.BackToBackFramesAllEmitted : Prop :=
  ∀ (s : State) (fs : List (List Byte × Frame)), s.Inv → s.st = .seekingStart → s.g = 0#32 →
    (∀ x ∈ fs, frameDecode s.params s.cfg x.1 = .ok x.2 ∧ x.2.params.length ≤ s.cfg.maxPayload.toNat) →
    ∃ t, feedAll (fs.map Prod.fst).flatten s = .next t ∧ t.events = s.events ++ fs.map (fun x => .frame x.2) ∧
      t.st = .seekingStart ∧ t.g = 0#32

/-- A valid frame with one parameter byte changed gives no frame and one Resync, of the frame's length, at its last byte,
under an algorithm that detects the change; under NONE it is emitted as a frame (42_stream.md R157). -/
def Obligations.CorruptedParameterGivesOneResync : Prop :=
  ∀ (s : State) (cmd x : Byte) (params raw : List Byte) (i : Nat), s.Inv → s.st = .seekingStart → s.g = 0#32 →
    params.length ≤ s.cfg.maxPayload.toNat → frameEncode s.params s.cfg cmd params = .ok raw → i < params.length →
    params[i]? ≠ some x →
    (DetectsByteChange s.params s.cfg.alg →
      (∃ t, feedAll (raw.set (2 + lengthBytes s.cfg.lw + i) x) s = .next t ∧ t.st = .seekingStart ∧
        t.events = s.events ++ [.resync (BitVec.ofNat 32 raw.length) .badChecksum]) ∧
      ∀ n < raw.length, ∃ u, feedAll ((raw.set (2 + lengthBytes s.cfg.lw + i) x).take n) s = .next u ∧
        u.events = s.events) ∧
    (s.cfg.alg = .none →
      ∃ t, feedAll (raw.set (2 + lengthBytes s.cfg.lw + i) x) s = .next t ∧ t.st = .seekingStart ∧
        t.events = s.events ++ [.frame ⟨cmd, params.set i x, []⟩])

/-! ## The assembler -/

/-- `FEEDS` writes one FEED word per byte, in order (30_encoding.md R86), and a byte operand outside 0..255 is refused
(R85). -/
def Obligations.FeedsPseudoWritesOneFeedPerByte : Prop :=
  (∀ (p : Params) (bs : List Byte), assembleLine p (.feeds (bs.map BitVec.toNat)) = .ok (bs.map fun b => encode (.feed 0 b))) ∧
  (∀ (p : Params) (ns : List Nat), (∃ n ∈ ns, 255 < n) → assembleLine p (.feeds ns) = .error .byteRange)

/-- A CONFIGURE line assembles exactly where it gives each of the six keys once, with numbers in range
(30_encoding.md R85; that the keys may come in any order is the model's choice, log 14); its one word is then the CONFIGURE of the Dialect its operands name. -/
def Obligations.ConfigureLineNeedsEachKeyOnce : Prop :=
  ∀ (p : Params) (args : List ConfigArg) (ws : List Word), assembleLine p (.configure args) = .ok ws ↔
    (args.map argKey).Perm [0, 1, 2, 3, 4, 5] ∧
    ∃ d : Dialect, ws = [encode (configureCommand d)] ∧ ∀ a ∈ args,
      match a with
      | .start n => n = d.startByte.toNat
      | .stop n => n = d.endByte.toNat
      | .alg x => x = d.alg
      | .lw w => w = d.lw
      | .lc c => c = d.lc
      | .maxp n => n = d.maxPayload.toNat
end

