-- ==== Sys2Proof/Laws/Operands.lean ====
section
/-! SUPPORT. The operand codes of CONFIGURE and what legality means, said once. -/

namespace Sys2Proof.Machine

theorem algOfCode_eq_some {a : BitVec 2} {x : Alg} : algOfCode a = some x ↔ algCode x = a := by
  cases x <;> revert a <;> decide

theorem algOfCode_eq_none {a : BitVec 2} : algOfCode a = none ↔ a = 3#2 := by
  revert a
  decide

@[simp] theorem algOfCode_algCode (x : Alg) : algOfCode (algCode x) = some x := algOfCode_eq_some.2 rfl

@[simp] theorem widthCode_widthOfCode (w : BitVec 1) : widthCode (widthOfCode w) = w := by
  revert w
  decide

@[simp] theorem widthOfCode_widthCode (w : LengthWidth) : widthOfCode (widthCode w) = w := by cases w <;> rfl

@[simp] theorem policyCode_policyOfCode (c : BitVec 1) : policyCode (policyOfCode c) = c := by
  revert c
  decide

@[simp] theorem policyOfCode_policyCode (c : LengthPolicy) : policyOfCode (policyCode c) = c := by cases c <;> rfl

/-- When operands are legal, and the Dialect they give. -/
theorem legalDialect_eq_some {p : Params} {start stop : Byte} {alg : BitVec 2} {lw lc : BitVec 1} {rsv : BitVec 4}
    {m : BitVec 16} {d : Dialect} :
    legalDialect p start stop alg lw lc rsv m = some d ↔
      rsv = 0#4 ∧ m ≤ p.bufDepth ∧ algCode d.alg = alg ∧ d = ⟨start, stop, d.alg, widthOfCode lw, policyOfCode lc, m⟩ := by
  unfold legalDialect
  cases h : algOfCode alg with
  | none =>
    simp only [reduceCtorEq, false_iff, not_and]
    intro _ _ h1
    rw [algOfCode_eq_some.2 h1] at h
    cases h
  | some x =>
    have hx := algOfCode_eq_some.1 h
    subst hx
    simp only [BitVec.not_lt]
    constructor
    · intro h1
      split at h1
      · rename_i hc
        cases h1
        exact ⟨hc.1, hc.2, rfl, rfl⟩
      · cases h1
    · rintro ⟨h1, h2, h3, h4⟩
      have hd : d.alg = x := by
        have := algOfCode_algCode d.alg
        rw [h3, algOfCode_algCode] at this
        exact (Option.some.inj this).symm
      rw [if_pos ⟨h1, h2⟩, h4, hd]

/-- When operands are illegal. -/
theorem legalDialect_eq_none {p : Params} {start stop : Byte} {alg : BitVec 2} {lw lc : BitVec 1} {rsv : BitVec 4}
    {m : BitVec 16} :
    legalDialect p start stop alg lw lc rsv m = none ↔ alg = 3#2 ∨ rsv ≠ 0#4 ∨ p.bufDepth < m := by
  unfold legalDialect
  cases h : algOfCode alg with
  | none => simp [algOfCode_eq_none.1 h]
  | some x =>
    have h3 : alg ≠ 3#2 := fun h3 => by
      rw [algOfCode_eq_none.2 h3] at h
      cases h
    simp only [h3, false_or]
    split
    · rename_i hc
      simp [hc.1, hc.2]
    · rename_i hc
      simp only [true_iff]
      by_cases hr : rsv = 0#4
      · exact .inr (by_contra fun hm => hc ⟨hr, hm⟩)
      · exact .inl hr

/-- Whether a declared length gives a parameter count (41_frame_check.md R122). -/
theorem paramCount_eq_none {c : LengthPolicy} {l : BitVec 16} :
    paramCount c l = none ↔ c = .payloadPlusCommand ∧ l = 0#16 := by
  cases c <;> simp [paramCount]

theorem paramCount_only (l : BitVec 16) : paramCount .payloadOnly l = some l := rfl

theorem paramCount_plus (l : BitVec 16) :
    paramCount .payloadPlusCommand l = if l = 0#16 then none else some (l - 1#16) := rfl

/-- The parameter count a declared length gives (41_frame_check.md R122). -/
theorem paramCount_eq_some {c : LengthPolicy} {l n : BitVec 16} :
    paramCount c l = some n ↔ ¬ (c = .payloadPlusCommand ∧ l = 0#16) ∧ n = if c = .payloadOnly then l else l - 1#16 := by
  cases c with
  | payloadOnly =>
    rw [paramCount_only, if_pos rfl]
    exact ⟨fun h => ⟨fun hc => (nomatch hc.1), (Option.some.inj h).symm⟩, fun h => congrArg some h.2.symm⟩
  | payloadPlusCommand =>
    rw [paramCount_plus, if_neg (by decide : ¬ LengthPolicy.payloadPlusCommand = .payloadOnly)]
    by_cases hl : l = 0#16
    · rw [if_pos hl]
      exact ⟨fun h => (nomatch h), fun h => absurd ⟨rfl, hl⟩ h.1⟩
    · rw [if_neg hl]
      exact ⟨fun h => ⟨fun hc => hl hc.2, (Option.some.inj h).symm⟩, fun h => congrArg some h.2.symm⟩

theorem lengthBytes_pos (w : LengthWidth) : 0 < lengthBytes w := by cases w <;> decide

theorem lengthBytes_le (w : LengthWidth) : lengthBytes w ≤ 2 := by cases w <;> decide

theorem checksumWidth_le (a : Alg) : checksumWidth a ≤ 2 := by cases a <;> decide

@[simp] theorem lenBytes_length (w : LengthWidth) (l : BitVec 16) : (lenBytes w l).length = lengthBytes w := by
  cases w <;> rfl

end Sys2Proof.Machine
end

