-- ==== Sys2Proof/Laws/State.lean ====
section
/-! SUPPORT. One lemma per field per update of the state. -/

namespace Sys2Proof.Machine

@[simp] theorem emit_params (s : State) (e : Event) : (emit s e).params = s.params := rfl
@[simp] theorem emit_cfg (s : State) (e : Event) : (emit s e).cfg = s.cfg := rfl
@[simp] theorem emit_cfgValid (s : State) (e : Event) : (emit s e).cfgValid = s.cfgValid := rfl
@[simp] theorem emit_st (s : State) (e : Event) : (emit s e).st = s.st := rfl
@[simp] theorem emit_k (s : State) (e : Event) : (emit s e).k = s.k := rfl
@[simp] theorem emit_c (s : State) (e : Event) : (emit s e).c = s.c := rfl
@[simp] theorem emit_cmd (s : State) (e : Event) : (emit s e).cmd = s.cmd := rfl
@[simp] theorem emit_L (s : State) (e : Event) : (emit s e).L = s.L := rfl
@[simp] theorem emit_P (s : State) (e : Event) : (emit s e).P = s.P := rfl
@[simp] theorem emit_buf (s : State) (e : Event) : (emit s e).buf = s.buf := rfl
@[simp] theorem emit_rx (s : State) (e : Event) : (emit s e).rx = s.rx := rfl
@[simp] theorem emit_fUnconf (s : State) (e : Event) : (emit s e).fUnconf = s.fUnconf := rfl
@[simp] theorem emit_fCfg (s : State) (e : Event) : (emit s e).fCfg = s.fCfg := rfl
@[simp] theorem emit_fOp (s : State) (e : Event) : (emit s e).fOp = s.fOp := rfl
@[simp] theorem emit_g (s : State) (e : Event) : (emit s e).g = s.g := rfl
@[simp] theorem emit_events (s : State) (e : Event) : (emit s e).events = s.events ++ [e] := rfl
@[simp] theorem emit_input (s : State) (e : Event) : (emit s e).input = s.input := rfl

@[simp] theorem clearAttempt_params (s : State) : (clearAttempt s).params = s.params := rfl
@[simp] theorem clearAttempt_cfg (s : State) : (clearAttempt s).cfg = s.cfg := rfl
@[simp] theorem clearAttempt_cfgValid (s : State) : (clearAttempt s).cfgValid = s.cfgValid := rfl
@[simp] theorem clearAttempt_st (s : State) : (clearAttempt s).st = s.st := rfl
@[simp] theorem clearAttempt_k (s : State) : (clearAttempt s).k = 0#16 := rfl
@[simp] theorem clearAttempt_c (s : State) : (clearAttempt s).c = 0#32 := rfl
@[simp] theorem clearAttempt_cmd (s : State) : (clearAttempt s).cmd = s.cmd := rfl
@[simp] theorem clearAttempt_L (s : State) : (clearAttempt s).L = 0#16 := rfl
@[simp] theorem clearAttempt_P (s : State) : (clearAttempt s).P = 0#16 := rfl
@[simp] theorem clearAttempt_buf (s : State) : (clearAttempt s).buf = s.buf := rfl
@[simp] theorem clearAttempt_rx (s : State) : (clearAttempt s).rx = [] := rfl
@[simp] theorem clearAttempt_fUnconf (s : State) : (clearAttempt s).fUnconf = s.fUnconf := rfl
@[simp] theorem clearAttempt_fCfg (s : State) : (clearAttempt s).fCfg = s.fCfg := rfl
@[simp] theorem clearAttempt_fOp (s : State) : (clearAttempt s).fOp = s.fOp := rfl
@[simp] theorem clearAttempt_g (s : State) : (clearAttempt s).g = s.g := rfl
@[simp] theorem clearAttempt_events (s : State) : (clearAttempt s).events = s.events := rfl
@[simp] theorem clearAttempt_input (s : State) : (clearAttempt s).input = s.input := rfl

@[simp] theorem toSeek_params (s : State) : (toSeek s).params = s.params := rfl
@[simp] theorem toSeek_cfg (s : State) : (toSeek s).cfg = s.cfg := rfl
@[simp] theorem toSeek_cfgValid (s : State) : (toSeek s).cfgValid = s.cfgValid := rfl
@[simp] theorem toSeek_st (s : State) : (toSeek s).st = .seekingStart := rfl
@[simp] theorem toSeek_k (s : State) : (toSeek s).k = 0#16 := rfl
@[simp] theorem toSeek_c (s : State) : (toSeek s).c = 0#32 := rfl
@[simp] theorem toSeek_cmd (s : State) : (toSeek s).cmd = s.cmd := rfl
@[simp] theorem toSeek_L (s : State) : (toSeek s).L = 0#16 := rfl
@[simp] theorem toSeek_P (s : State) : (toSeek s).P = 0#16 := rfl
@[simp] theorem toSeek_buf (s : State) : (toSeek s).buf = s.buf := rfl
@[simp] theorem toSeek_rx (s : State) : (toSeek s).rx = [] := rfl
@[simp] theorem toSeek_fUnconf (s : State) : (toSeek s).fUnconf = s.fUnconf := rfl
@[simp] theorem toSeek_fCfg (s : State) : (toSeek s).fCfg = s.fCfg := rfl
@[simp] theorem toSeek_fOp (s : State) : (toSeek s).fOp = s.fOp := rfl
@[simp] theorem toSeek_g (s : State) : (toSeek s).g = s.g := rfl
@[simp] theorem toSeek_events (s : State) : (toSeek s).events = s.events := rfl
@[simp] theorem toSeek_input (s : State) : (toSeek s).input = s.input := rfl

@[simp] theorem resync_params (s : State) (r : Reason) : (resync s r).params = s.params := rfl
@[simp] theorem resync_cfg (s : State) (r : Reason) : (resync s r).cfg = s.cfg := rfl
@[simp] theorem resync_cfgValid (s : State) (r : Reason) : (resync s r).cfgValid = s.cfgValid := rfl
@[simp] theorem resync_st (s : State) (r : Reason) : (resync s r).st = .seekingStart := rfl
@[simp] theorem resync_k (s : State) (r : Reason) : (resync s r).k = 0#16 := rfl
@[simp] theorem resync_c (s : State) (r : Reason) : (resync s r).c = 0#32 := rfl
@[simp] theorem resync_cmd (s : State) (r : Reason) : (resync s r).cmd = s.cmd := rfl
@[simp] theorem resync_L (s : State) (r : Reason) : (resync s r).L = 0#16 := rfl
@[simp] theorem resync_P (s : State) (r : Reason) : (resync s r).P = 0#16 := rfl
@[simp] theorem resync_buf (s : State) (r : Reason) : (resync s r).buf = s.buf := rfl
@[simp] theorem resync_rx (s : State) (r : Reason) : (resync s r).rx = [] := rfl
@[simp] theorem resync_fUnconf (s : State) (r : Reason) : (resync s r).fUnconf = s.fUnconf := rfl
@[simp] theorem resync_fCfg (s : State) (r : Reason) : (resync s r).fCfg = s.fCfg := rfl
@[simp] theorem resync_fOp (s : State) (r : Reason) : (resync s r).fOp = s.fOp := rfl
@[simp] theorem resync_g (s : State) (r : Reason) : (resync s r).g = s.g := rfl
@[simp] theorem resync_events (s : State) (r : Reason) : (resync s r).events = s.events ++ [.resync s.c r] := rfl
@[simp] theorem resync_input (s : State) (r : Reason) : (resync s r).input = s.input := rfl

@[simp] theorem restart_params (s : State) : (restart s).params = s.params := rfl
@[simp] theorem restart_cfg (s : State) : (restart s).cfg = s.cfg := rfl
@[simp] theorem restart_cfgValid (s : State) : (restart s).cfgValid = s.cfgValid := rfl
@[simp] theorem restart_st (s : State) : (restart s).st = s.st := rfl
@[simp] theorem restart_k (s : State) : (restart s).k = 0#16 := rfl
@[simp] theorem restart_c (s : State) : (restart s).c = 0#32 := rfl
@[simp] theorem restart_cmd (s : State) : (restart s).cmd = s.cmd := rfl
@[simp] theorem restart_L (s : State) : (restart s).L = 0#16 := rfl
@[simp] theorem restart_P (s : State) : (restart s).P = 0#16 := rfl
@[simp] theorem restart_buf (s : State) : (restart s).buf = s.buf := rfl
@[simp] theorem restart_rx (s : State) : (restart s).rx = [] := rfl
@[simp] theorem restart_fUnconf (s : State) : (restart s).fUnconf = s.fUnconf := rfl
@[simp] theorem restart_fCfg (s : State) : (restart s).fCfg = s.fCfg := rfl
@[simp] theorem restart_fOp (s : State) : (restart s).fOp = s.fOp := rfl
@[simp] theorem restart_g (s : State) : (restart s).g = 0#32 := rfl
@[simp] theorem restart_events (s : State) : (restart s).events = s.events := rfl
@[simp] theorem restart_input (s : State) : (restart s).input = s.input := rfl

@[simp] theorem loadDialect_params (s : State) (d : Dialect) : (loadDialect s d).params = s.params := rfl
@[simp] theorem loadDialect_cfg (s : State) (d : Dialect) : (loadDialect s d).cfg = d := rfl
@[simp] theorem loadDialect_cfgValid (s : State) (d : Dialect) : (loadDialect s d).cfgValid = true := rfl
@[simp] theorem loadDialect_st (s : State) (d : Dialect) : (loadDialect s d).st = .seekingStart := rfl
@[simp] theorem loadDialect_k (s : State) (d : Dialect) : (loadDialect s d).k = 0#16 := rfl
@[simp] theorem loadDialect_c (s : State) (d : Dialect) : (loadDialect s d).c = 0#32 := rfl
@[simp] theorem loadDialect_cmd (s : State) (d : Dialect) : (loadDialect s d).cmd = s.cmd := rfl
@[simp] theorem loadDialect_L (s : State) (d : Dialect) : (loadDialect s d).L = 0#16 := rfl
@[simp] theorem loadDialect_P (s : State) (d : Dialect) : (loadDialect s d).P = 0#16 := rfl
@[simp] theorem loadDialect_buf (s : State) (d : Dialect) : (loadDialect s d).buf = s.buf := rfl
@[simp] theorem loadDialect_rx (s : State) (d : Dialect) : (loadDialect s d).rx = [] := rfl
@[simp] theorem loadDialect_fUnconf (s : State) (d : Dialect) : (loadDialect s d).fUnconf = s.fUnconf := rfl
@[simp] theorem loadDialect_fCfg (s : State) (d : Dialect) : (loadDialect s d).fCfg = s.fCfg := rfl
@[simp] theorem loadDialect_fOp (s : State) (d : Dialect) : (loadDialect s d).fOp = s.fOp := rfl
@[simp] theorem loadDialect_g (s : State) (d : Dialect) : (loadDialect s d).g = 0#32 := rfl
@[simp] theorem loadDialect_events (s : State) (d : Dialect) : (loadDialect s d).events = s.events := rfl
@[simp] theorem loadDialect_input (s : State) (d : Dialect) : (loadDialect s d).input = s.input := rfl

@[simp] theorem refuseDialect_params (s : State) : (refuseDialect s).params = s.params := rfl
@[simp] theorem refuseDialect_cfg (s : State) : (refuseDialect s).cfg = s.cfg := rfl
@[simp] theorem refuseDialect_cfgValid (s : State) : (refuseDialect s).cfgValid = false := rfl
@[simp] theorem refuseDialect_st (s : State) : (refuseDialect s).st = .unconfigured := rfl
@[simp] theorem refuseDialect_k (s : State) : (refuseDialect s).k = 0#16 := rfl
@[simp] theorem refuseDialect_c (s : State) : (refuseDialect s).c = 0#32 := rfl
@[simp] theorem refuseDialect_cmd (s : State) : (refuseDialect s).cmd = s.cmd := rfl
@[simp] theorem refuseDialect_L (s : State) : (refuseDialect s).L = 0#16 := rfl
@[simp] theorem refuseDialect_P (s : State) : (refuseDialect s).P = 0#16 := rfl
@[simp] theorem refuseDialect_buf (s : State) : (refuseDialect s).buf = s.buf := rfl
@[simp] theorem refuseDialect_rx (s : State) : (refuseDialect s).rx = [] := rfl
@[simp] theorem refuseDialect_fUnconf (s : State) : (refuseDialect s).fUnconf = s.fUnconf := rfl
@[simp] theorem refuseDialect_fCfg (s : State) : (refuseDialect s).fCfg = true := rfl
@[simp] theorem refuseDialect_fOp (s : State) : (refuseDialect s).fOp = s.fOp := rfl
@[simp] theorem refuseDialect_g (s : State) : (refuseDialect s).g = 0#32 := rfl
@[simp] theorem refuseDialect_events (s : State) : (refuseDialect s).events = s.events := rfl
@[simp] theorem refuseDialect_input (s : State) : (refuseDialect s).input = s.input := rfl

@[simp] theorem present_params (s : State) (w : Word) : (present s w).params = s.params := rfl
@[simp] theorem present_cfg (s : State) (w : Word) : (present s w).cfg = s.cfg := rfl
@[simp] theorem present_cfgValid (s : State) (w : Word) : (present s w).cfgValid = s.cfgValid := rfl
@[simp] theorem present_st (s : State) (w : Word) : (present s w).st = s.st := rfl
@[simp] theorem present_k (s : State) (w : Word) : (present s w).k = s.k := rfl
@[simp] theorem present_c (s : State) (w : Word) : (present s w).c = s.c := rfl
@[simp] theorem present_cmd (s : State) (w : Word) : (present s w).cmd = s.cmd := rfl
@[simp] theorem present_L (s : State) (w : Word) : (present s w).L = s.L := rfl
@[simp] theorem present_P (s : State) (w : Word) : (present s w).P = s.P := rfl
@[simp] theorem present_buf (s : State) (w : Word) : (present s w).buf = s.buf := rfl
@[simp] theorem present_rx (s : State) (w : Word) : (present s w).rx = s.rx := rfl
@[simp] theorem present_fUnconf (s : State) (w : Word) : (present s w).fUnconf = s.fUnconf := rfl
@[simp] theorem present_fCfg (s : State) (w : Word) : (present s w).fCfg = s.fCfg := rfl
@[simp] theorem present_fOp (s : State) (w : Word) : (present s w).fOp = s.fOp := rfl
@[simp] theorem present_g (s : State) (w : Word) : (present s w).g = s.g := rfl
@[simp] theorem present_events (s : State) (w : Word) : (present s w).events = s.events := rfl
@[simp] theorem present_input (s : State) (w : Word) : (present s w).input = w :: s.input := rfl

@[simp] theorem raiseFault_params (s : State) (f : InterfaceFault) : (raiseFault s f).params = s.params := by
  cases f <;> rfl
@[simp] theorem raiseFault_cfg (s : State) (f : InterfaceFault) : (raiseFault s f).cfg = s.cfg := by
  cases f <;> rfl
@[simp] theorem raiseFault_cfgValid (s : State) (f : InterfaceFault) : (raiseFault s f).cfgValid = s.cfgValid := by
  cases f <;> rfl
@[simp] theorem raiseFault_st (s : State) (f : InterfaceFault) : (raiseFault s f).st = s.st := by
  cases f <;> rfl
@[simp] theorem raiseFault_k (s : State) (f : InterfaceFault) : (raiseFault s f).k = s.k := by
  cases f <;> rfl
@[simp] theorem raiseFault_c (s : State) (f : InterfaceFault) : (raiseFault s f).c = s.c := by
  cases f <;> rfl
@[simp] theorem raiseFault_cmd (s : State) (f : InterfaceFault) : (raiseFault s f).cmd = s.cmd := by
  cases f <;> rfl
@[simp] theorem raiseFault_L (s : State) (f : InterfaceFault) : (raiseFault s f).L = s.L := by
  cases f <;> rfl
@[simp] theorem raiseFault_P (s : State) (f : InterfaceFault) : (raiseFault s f).P = s.P := by
  cases f <;> rfl
@[simp] theorem raiseFault_buf (s : State) (f : InterfaceFault) : (raiseFault s f).buf = s.buf := by
  cases f <;> rfl
@[simp] theorem raiseFault_rx (s : State) (f : InterfaceFault) : (raiseFault s f).rx = s.rx := by
  cases f <;> rfl
@[simp] theorem raiseFault_fUnconf (s : State) (f : InterfaceFault) : (raiseFault s f).fUnconf = (s.fUnconf || decide (f = .unconf)) := by
  cases f <;> simp [raiseFault]
@[simp] theorem raiseFault_fCfg (s : State) (f : InterfaceFault) : (raiseFault s f).fCfg = (s.fCfg || decide (f = .cfg)) := by
  cases f <;> simp [raiseFault]
@[simp] theorem raiseFault_fOp (s : State) (f : InterfaceFault) : (raiseFault s f).fOp = (s.fOp || decide (f = .op)) := by
  cases f <;> simp [raiseFault]
@[simp] theorem raiseFault_g (s : State) (f : InterfaceFault) : (raiseFault s f).g = s.g := by
  cases f <;> rfl
@[simp] theorem raiseFault_events (s : State) (f : InterfaceFault) : (raiseFault s f).events = s.events := by
  cases f <;> rfl
@[simp] theorem raiseFault_input (s : State) (f : InterfaceFault) : (raiseFault s f).input = s.input := by
  cases f <;> rfl

@[simp] theorem reportGarbage_params (s : State) : (reportGarbage s).params = s.params := by
  unfold reportGarbage
  split <;> rfl
@[simp] theorem reportGarbage_cfg (s : State) : (reportGarbage s).cfg = s.cfg := by
  unfold reportGarbage
  split <;> rfl
@[simp] theorem reportGarbage_cfgValid (s : State) : (reportGarbage s).cfgValid = s.cfgValid := by
  unfold reportGarbage
  split <;> rfl
@[simp] theorem reportGarbage_st (s : State) : (reportGarbage s).st = s.st := by
  unfold reportGarbage
  split <;> rfl
@[simp] theorem reportGarbage_k (s : State) : (reportGarbage s).k = s.k := by
  unfold reportGarbage
  split <;> rfl
@[simp] theorem reportGarbage_c (s : State) : (reportGarbage s).c = s.c := by
  unfold reportGarbage
  split <;> rfl
@[simp] theorem reportGarbage_cmd (s : State) : (reportGarbage s).cmd = s.cmd := by
  unfold reportGarbage
  split <;> rfl
@[simp] theorem reportGarbage_L (s : State) : (reportGarbage s).L = s.L := by
  unfold reportGarbage
  split <;> rfl
@[simp] theorem reportGarbage_P (s : State) : (reportGarbage s).P = s.P := by
  unfold reportGarbage
  split <;> rfl
@[simp] theorem reportGarbage_buf (s : State) : (reportGarbage s).buf = s.buf := by
  unfold reportGarbage
  split <;> rfl
@[simp] theorem reportGarbage_rx (s : State) : (reportGarbage s).rx = s.rx := by
  unfold reportGarbage
  split <;> rfl
@[simp] theorem reportGarbage_fUnconf (s : State) : (reportGarbage s).fUnconf = s.fUnconf := by
  unfold reportGarbage
  split <;> rfl
@[simp] theorem reportGarbage_fCfg (s : State) : (reportGarbage s).fCfg = s.fCfg := by
  unfold reportGarbage
  split <;> rfl
@[simp] theorem reportGarbage_fOp (s : State) : (reportGarbage s).fOp = s.fOp := by
  unfold reportGarbage
  split <;> rfl
@[simp] theorem reportGarbage_g (s : State) : (reportGarbage s).g = 0#32 := by
  unfold reportGarbage
  split
  · rfl
  · simp_all
@[simp] theorem reportGarbage_events (s : State) :
    (reportGarbage s).events = if s.g = 0#32 then s.events else s.events ++ [.resync s.g .noStart] := by
  by_cases h : s.g = 0#32
  · rw [reportGarbage, if_neg (by simp [h]), if_pos h]
  · have h1 : 0#32 < s.g := by bv_omega
    rw [reportGarbage, if_pos h1, if_neg h]
    rfl
@[simp] theorem reportGarbage_input (s : State) : (reportGarbage s).input = s.input := by
  unfold reportGarbage
  split <;> rfl

end Sys2Proof.Machine
end

