-- ==== Sys2Proof/Laws/Control.lean ====
section
/-! SUPPORT. What RESET, CONFIGURE and the reserved command can do, said once. -/

namespace Sys2Proof.Machine

theorem execReset_rsv {rsv : BitVec 40} (h : rsv ≠ 0#40) (s : State) : execReset rsv s = .next (raiseFault s .op) :=
  if_neg h

theorem execReset_zero (s : State) :
    execReset 0#40 s = .next { restart s with st := if s.cfgValid then .seekingStart else .unconfigured } := if_pos rfl

@[simp] theorem configured_some (s : State) (d : Dialect) : configured s (some d) = loadDialect s d := rfl

@[simp] theorem configured_none (s : State) : configured s none = refuseDialect s := rfl

/-- Everything a CONFIGURE can do. -/
theorem execConfigure_cases {s t : State} {start stop : Byte} {alg : BitVec 2} {lw lc : BitVec 1} {rsv : BitVec 4}
    {m : BitVec 16} (h : execConfigure start stop alg lw lc rsv m s = .next t) :
    (∃ d, legalDialect s.params start stop alg lw lc rsv m = some d ∧ t = loadDialect s d) ∨
      (legalDialect s.params start stop alg lw lc rsv m = none ∧ t = refuseDialect s) := by
  cases h
  cases hd : legalDialect s.params start stop alg lw lc rsv m with
  | some d => exact .inl ⟨d, rfl, rfl⟩
  | none => exact .inr ⟨rfl, rfl⟩

/-- A loaded Dialect's operands are legal (43_control.md R172). -/
theorem legalDialect_fields {p : Params} {start stop : Byte} {alg : BitVec 2} {lw lc : BitVec 1} {rsv : BitVec 4}
    {m : BitVec 16} {d : Dialect} (h : legalDialect p start stop alg lw lc rsv m = some d) :
    alg ≠ 3#2 ∧ rsv = 0#4 ∧ m ≤ p.bufDepth ∧ d.maxPayload = m := by
  obtain ⟨h1, h2, h3, h4⟩ := legalDialect_eq_some.1 h
  refine ⟨?_, h1, h2, by rw [h4]⟩
  rw [← h3]
  cases d.alg <;> decide

theorem execReservedOp3_eq (arg : BitVec 40) (s : State) : execReservedOp3 arg s = .next (raiseFault s .op) := rfl

end Sys2Proof.Machine
end

