-- ==== Sys2Proof/Laws/Decode.lean ====
section
/-! SUPPORT. The bits of an encoded command, one lemma per constructor. -/

namespace Sys2Proof

theorem encode_feed_getLsbD (rsv : BitVec 32) (b : Byte) (i : Nat) :
    (encode (.feed rsv b)).getLsbD i =
      if i < 8 then b.getLsbD i else if i - 8 < 32 then rsv.getLsbD (i - 8) else (0#2).getLsbD (i - 8 - 32) := by
  show ((0#2 ++ rsv : BitVec 34) ++ b : BitVec (34 + 8)).getLsbD i = _
  rw [BitVec.getLsbD_append]
  split
  · rfl
  · exact BitVec.getLsbD_append

theorem encode_reset_getLsbD (rsv : BitVec 40) (i : Nat) :
    (encode (.reset rsv)).getLsbD i = if i < 40 then rsv.getLsbD i else (1#2).getLsbD (i - 40) :=
  BitVec.getLsbD_append (x := 1#2) (y := rsv)

theorem encode_configure_getLsbD (start stop : Byte) (alg : BitVec 2) (lw lc : BitVec 1) (rsv : BitVec 4)
    (maxPayload : BitVec 16) (i : Nat) :
    (encode (.configure start stop alg lw lc rsv maxPayload)).getLsbD i =
      if i < 8 then start.getLsbD i else if i < 16 then stop.getLsbD (i - 8) else if i < 18 then alg.getLsbD (i - 16)
      else if i < 19 then lw.getLsbD (i - 18) else if i < 20 then lc.getLsbD (i - 19)
      else if i < 24 then rsv.getLsbD (i - 20) else if i < 40 then maxPayload.getLsbD (i - 24)
      else (2#2).getLsbD (i - 40) := by
  have h1 : ∀ i, (2#2 ++ maxPayload : BitVec 18).getLsbD i
      = if i < 16 then maxPayload.getLsbD i else (2#2).getLsbD (i - 16) :=
    fun i => BitVec.getLsbD_append (x := 2#2) (y := maxPayload)
  have h2 : ∀ i, (2#2 ++ maxPayload ++ rsv : BitVec 22).getLsbD i
      = if i < 4 then rsv.getLsbD i else (2#2 ++ maxPayload : BitVec 18).getLsbD (i - 4) :=
    fun i => BitVec.getLsbD_append (x := 2#2 ++ maxPayload) (y := rsv)
  have h3 : ∀ i, (2#2 ++ maxPayload ++ rsv ++ lc : BitVec 23).getLsbD i
      = if i < 1 then lc.getLsbD i else (2#2 ++ maxPayload ++ rsv : BitVec 22).getLsbD (i - 1) :=
    fun i => BitVec.getLsbD_append (x := 2#2 ++ maxPayload ++ rsv) (y := lc)
  have h4 : ∀ i, (2#2 ++ maxPayload ++ rsv ++ lc ++ lw : BitVec 24).getLsbD i
      = if i < 1 then lw.getLsbD i else (2#2 ++ maxPayload ++ rsv ++ lc : BitVec 23).getLsbD (i - 1) :=
    fun i => BitVec.getLsbD_append (x := 2#2 ++ maxPayload ++ rsv ++ lc) (y := lw)
  have h5 : ∀ i, (2#2 ++ maxPayload ++ rsv ++ lc ++ lw ++ alg : BitVec 26).getLsbD i
      = if i < 2 then alg.getLsbD i else (2#2 ++ maxPayload ++ rsv ++ lc ++ lw : BitVec 24).getLsbD (i - 2) :=
    fun i => BitVec.getLsbD_append (x := 2#2 ++ maxPayload ++ rsv ++ lc ++ lw) (y := alg)
  have h6 : ∀ i, (2#2 ++ maxPayload ++ rsv ++ lc ++ lw ++ alg ++ stop : BitVec 34).getLsbD i
      = if i < 8 then stop.getLsbD i else (2#2 ++ maxPayload ++ rsv ++ lc ++ lw ++ alg : BitVec 26).getLsbD (i - 8) :=
    fun i => BitVec.getLsbD_append (x := 2#2 ++ maxPayload ++ rsv ++ lc ++ lw ++ alg) (y := stop)
  have h7 : (encode (.configure start stop alg lw lc rsv maxPayload)).getLsbD i
      = if i < 8 then start.getLsbD i
        else (2#2 ++ maxPayload ++ rsv ++ lc ++ lw ++ alg ++ stop : BitVec 34).getLsbD (i - 8) :=
    BitVec.getLsbD_append (x := 2#2 ++ maxPayload ++ rsv ++ lc ++ lw ++ alg ++ stop) (y := start)
  rw [h7]
  simp only [h6, h5, h4, h3, h2, h1]
  repeat' split
  all_goals first
    | rfl
    | omega

theorem encode_reservedOp3_getLsbD (arg : BitVec 40) (i : Nat) :
    (encode (.reservedOp3 arg)).getLsbD i = if i < 40 then arg.getLsbD i else (3#2).getLsbD (i - 40) :=
  BitVec.getLsbD_append (x := 3#2) (y := arg)

/-- The bits of a word with a given op and arg (30_encoding.md R70). -/
theorem opArg_getLsbD (op : BitVec 2) (arg : BitVec 40) (i : Nat) :
    (op ++ arg : Word).getLsbD i = if i < 40 then arg.getLsbD i else op.getLsbD (i - 40) :=
  BitVec.getLsbD_append (x := op) (y := arg)

end Sys2Proof
end

