-- ==== Sys2Proof/Laws/Ops.lean ====
section
/-! SUPPORT. What each shared operation can do, said once: the parameter buffer and the command channel. -/

namespace Sys2Proof.Machine

@[simp] theorem Memory.read_nil (i : Nat) : Memory.read [] i = none := rfl

@[simp] theorem Memory.wf_nil : Memory.wf [] = true := rfl

theorem Memory.wf_cons (e : Host.Cell) (m : Memory) :
    Memory.wf (e :: m) = true ↔ (∀ f ∈ m, e.1 < f.1) ∧ Memory.wf m = true := by
  simp [Memory.wf]

@[simp] theorem Memory.read_write_same (m : Memory) (i : Nat) (b : Byte) :
    Memory.read (Memory.write m i b) i = some b := by
  induction m with
  | nil => simp [Memory.write, Memory.read]
  | cons e m ih =>
    simp only [Memory.write]
    split
    · simp [Memory.read]
    · split
      · simp [Memory.read]
      · rename_i h
        simp [Memory.read, h, ih]

theorem Memory.read_write_other (m : Memory) {i j : Nat} (h : j ≠ i) (b : Byte) :
    Memory.read (Memory.write m i b) j = Memory.read m j := by
  induction m with
  | nil => simp [Memory.write, Memory.read, h]
  | cons e m ih =>
    simp only [Memory.write]
    split
    · simp [Memory.read, h]
    · split
      · rename_i h1
        have : j ≠ e.1 := h1 ▸ h
        simp [Memory.read, h, this]
      · simp only [Memory.read, ih]

theorem Memory.mem_write {m : Memory} {i : Nat} {b : Byte} {e : Host.Cell} (h : e ∈ Memory.write m i b) :
    e = (i, b) ∨ e ∈ m := by
  induction m with
  | nil => simpa [Memory.write] using h
  | cons f m ih =>
    simp only [Memory.write] at h
    split at h
    · simpa using h
    · split at h
      · simp only [List.mem_cons] at h ⊢
        exact h.imp id .inr
      · simp only [List.mem_cons] at h ⊢
        rcases h with h | h
        · exact .inr (.inl h)
        · exact (ih h).imp id .inr

/-- A write keeps the canonical form. -/
theorem Memory.wf_write {m : Memory} (h : Memory.wf m = true) (i : Nat) (b : Byte) :
    Memory.wf (Memory.write m i b) = true := by
  induction m with
  | nil => simp [Memory.write, Memory.wf]
  | cons e m ih =>
    obtain ⟨hlt, hm⟩ := (Memory.wf_cons e m).1 h
    simp only [Memory.write]
    split
    · rename_i hi
      refine (Memory.wf_cons _ _).2 ⟨fun f hf => ?_, h⟩
      rcases List.mem_cons.1 hf with rfl | hf
      · exact hi
      · exact lt_trans hi (hlt f hf)
    · split
      · rename_i hi
        exact (Memory.wf_cons _ _).2 ⟨fun f hf => hi ▸ hlt f hf, hm⟩
      · refine (Memory.wf_cons _ _).2 ⟨fun f hf => ?_, ih hm⟩
        rcases Memory.mem_write hf with rfl | hf
        · simp only
          omega
        · exact hlt f hf

/-- The buffer at reset has the canonical form. -/
theorem reset_buf_wf : Memory.wf State.reset.buf = true := rfl

/-- What `memRead` answers, whenever it answers a byte. -/
theorem memRead_ok {s : State} {i : Nat} {b : Byte} :
    memRead s i = .ok b ↔ i < s.params.bufDepth.toNat ∧ Memory.read s.buf i = some b := by
  unfold memRead
  by_cases h : i < s.params.bufDepth.toNat
  · rw [if_pos h]
    cases hr : Memory.read s.buf i <;> simp [h]
  · simp [h]

/-- What `memWrite` answers, whenever it answers a state. -/
theorem memWrite_ok {s t : State} {i : Nat} {b : Byte} :
    memWrite s i b = .ok t ↔
      i < s.params.bufDepth.toNat ∧ t = { s with buf := Memory.write s.buf i b } := by
  unfold memWrite
  by_cases h : i < s.params.bufDepth.toNat
  · simp [h, eq_comm]
  · simp [h]

/-- What `memReadRange` answers, whenever it answers bytes: one byte for each index, each of them `memRead`'s. -/
theorem memReadRange_ok {s : State} {i n : Nat} {bs : List Byte} :
    memReadRange s i n = .ok bs ↔
      bs.length = n ∧ ∀ j (h : j < bs.length), memRead s (i + j) = .ok bs[j] := by
  induction n generalizing i bs with
  | zero => cases bs <;> simp [memReadRange]
  | succ n ih =>
    unfold memReadRange
    cases hr : memRead s i with
    | error e =>
      simp only [reduceCtorEq, false_iff, not_and]
      intro hl hall
      have := hall 0 (by omega)
      simp [hr] at this
    | ok b =>
      cases hrest : memReadRange s (i + 1) n with
      | error e =>
        simp only [reduceCtorEq, false_iff, not_and]
        intro hl hall
        cases bs with
        | nil => simp at hl
        | cons b' bs =>
          have h1 : memReadRange s (i + 1) n = .ok bs := by
            rw [ih]
            refine ⟨by simpa using hl, fun j h => ?_⟩
            have := hall (j + 1) (by simpa using h)
            simpa [Nat.add_comm, Nat.add_left_comm] using this
          simp [hrest] at h1
      | ok bs' =>
        simp only [Except.ok.injEq]
        constructor
        · rintro rfl
          obtain ⟨hl, hall⟩ := ih.1 hrest
          refine ⟨by simp [hl], fun j h => ?_⟩
          cases j with
          | zero => simpa using hr
          | succ j =>
            have := hall j (by simpa using h)
            simpa [Nat.add_comm, Nat.add_left_comm] using this
        · rintro ⟨hl, hall⟩
          cases bs with
          | nil => simp at hl
          | cons b'' bs =>
            have h0 := hall 0 (by simp)
            have h1 : memReadRange s (i + 1) n = .ok bs := by
              rw [ih]
              refine ⟨by simpa using hl, fun j h => ?_⟩
              have := hall (j + 1) (by simpa using h)
              simpa [Nat.add_comm, Nat.add_left_comm] using this
            simp [hr] at h0
            simp [hrest] at h1
            simp [h0, h1]

/-- A range of written indices below `BUF_DEPTH` can be read. -/
theorem memReadRange_exists {s : State} {i n : Nat}
    (h : ∀ j < n, i + j < s.params.bufDepth.toNat ∧ (Memory.read s.buf (i + j)).isSome = true) :
    ∃ bs, memReadRange s i n = .ok bs := by
  induction n generalizing i with
  | zero => exact ⟨[], rfl⟩
  | succ n ih =>
    obtain ⟨hi, hs⟩ := h 0 (by omega)
    obtain ⟨b, hb⟩ := Option.isSome_iff_exists.1 hs
    have hr : memRead s i = .ok b := memRead_ok.2 ⟨by simpa using hi, by simpa using hb⟩
    obtain ⟨bs, hbs⟩ := ih (i := i + 1) (fun j hj => by
      have := h (j + 1) (by omega)
      simpa [Nat.add_comm, Nat.add_left_comm] using this)
    exact ⟨b :: bs, by simp [memReadRange, hr, hbs]⟩

/-- A read of the buffer depends on the buffer and the parameters only. -/
theorem memReadRange_congr {s t : State} (hp : t.params = s.params) (hb : t.buf = s.buf) (i n : Nat) :
    memReadRange t i n = memReadRange s i n := by
  induction n generalizing i with
  | zero => rfl
  | succ n ih => simp only [memReadRange, memRead, hp, hb, ih]

/-- Every way `memRead` can stop. -/
theorem memRead_error {s : State} {i : Nat} {e : Fault} (h : memRead s i = .error e) :
    (e = .bufferIndex i ∧ s.params.bufDepth.toNat ≤ i) ∨
      (e = .bufferUnwritten i ∧ i < s.params.bufDepth.toNat ∧ Memory.read s.buf i = none) := by
  unfold memRead at h
  split at h
  · split at h
    · cases h
    · cases h; exact .inr ⟨rfl, by assumption, by assumption⟩
  · cases h; exact .inl ⟨rfl, by omega⟩

/-- Every way `memReadRange` can stop: at an index of the range that does not exist or that nothing has written. -/
theorem memReadRange_error {s : State} {i n : Nat} {e : Fault} (h : memReadRange s i n = .error e) :
    ∃ j < n, (e = .bufferIndex (i + j) ∧ s.params.bufDepth.toNat ≤ i + j) ∨
      (e = .bufferUnwritten (i + j) ∧ i + j < s.params.bufDepth.toNat ∧ Memory.read s.buf (i + j) = none) := by
  induction n generalizing i with
  | zero => cases h
  | succ n ih =>
    unfold memReadRange at h
    cases hm : memRead s i with
    | error e' =>
      rw [hm] at h
      cases h
      exact ⟨0, by omega, memRead_error hm⟩
    | ok b =>
      rw [hm] at h
      cases hr : memReadRange s (i + 1) n with
      | error e' =>
        simp only [hr] at h
        cases h
        obtain ⟨j, hj, hc⟩ := ih hr
        exact ⟨j + 1, by omega, by rwa [Nat.add_right_comm, Nat.add_assoc] at hc⟩
      | ok bs =>
        simp only [hr] at h
        cases h

@[simp] theorem fetch_nil {s : State} (h : s.input = []) : fetch s = none := by simp [fetch, h]

theorem fetch_cons {s : State} {w : Word} {rest : List Word} (h : s.input = w :: rest) :
    fetch s = some (w, { s with input := rest }) := by simp [fetch, h]

theorem fetch_present (s : State) (w : Word) : fetch (present s w) = some (w, s) := rfl

end Sys2Proof.Machine
end

