-- ==== Sys2Proof/Laws/Feed.lean ====
section
/-! SUPPORT. What each step of FEED can do, said once; later proofs cite these instead of unfolding the step. -/

namespace Sys2Proof.Machine

theorem execFeed_rsv {rsv : BitVec 32} (h : rsv ≠ 0#32) (b : Byte) (s : State) :
    execFeed rsv b s = .next (raiseFault s .op) := if_neg h

@[simp] theorem execFeed_zero (b : Byte) (s : State) : execFeed 0#32 b s = feedByte b s := if_pos rfl

theorem feedByte_unconfigured {s : State} (h : s.st = .unconfigured) (b : Byte) :
    feedByte b s = .next (raiseFault s .unconf) := by simp [feedByte, h]

theorem feedByte_seekingStart {s : State} (h : s.st = .seekingStart) (b : Byte) :
    feedByte b s = .next (feedSeek b s) := by simp [feedByte, h]

theorem feedByte_readingLength {s : State} (h : s.st = .readingLength) (b : Byte) :
    feedByte b s = .next (feedLen b s) := by simp [feedByte, h]

theorem feedByte_readingPayload {s : State} (h : s.st = .readingPayload) (b : Byte) :
    feedByte b s = feedPay b s := by simp [feedByte, h]

theorem feedByte_checksum {s : State} (h : s.st = .readingChecksumEnd) (hk : s.k.toNat < checksumWidth s.cfg.alg)
    (b : Byte) : feedByte b s = .next (feedCsum b s) := by simp [feedByte, h, hk]

theorem feedByte_end {s : State} (h : s.st = .readingChecksumEnd) (hk : checksumWidth s.cfg.alg ≤ s.k.toNat)
    (b : Byte) : feedByte b s = feedEnd b s := by simp [feedByte, h, Nat.not_lt.2 hk]

theorem feedLen_code {s : State} (hk : s.k = 0#16) (b : Byte) :
    feedLen b s = { s with c := s.c + 1#32, cmd := b, k := 1#16 } := by
  have hp := lengthBytes_pos s.cfg.lw
  have h1 : ¬ (s.k + 1#16).toNat = 1 + lengthBytes s.cfg.lw := by
    rw [hk]
    show ¬ (1 : Nat) = _
    omega
  unfold feedLen
  rw [if_pos hk]
  refine (if_neg h1).trans ?_
  rw [hk]
  rfl

theorem feedLen_more {s : State} (hk : s.k ≠ 0#16) (hn : s.k.toNat ≠ lengthBytes s.cfg.lw) (b : Byte) :
    feedLen b s = { s with c := s.c + 1#32, L := addLengthByte s.L b, k := s.k + 1#16 } := by
  have h1 : ¬ (s.k + 1#16).toNat = 1 + lengthBytes s.cfg.lw := by
    have hp := lengthBytes_pos s.cfg.lw
    bv_omega
  unfold feedLen
  rw [if_neg hk]
  exact if_neg h1

theorem feedLen_last {s : State} (hn : s.k.toNat = lengthBytes s.cfg.lw) (b : Byte) :
    feedLen b s = lengthDone { s with c := s.c + 1#32, L := addLengthByte s.L b, k := s.k + 1#16 } := by
  have hp := lengthBytes_pos s.cfg.lw
  have hle := lengthBytes_le s.cfg.lw
  have hk : s.k ≠ 0#16 := by bv_omega
  have h1 : (s.k + 1#16).toNat = 1 + lengthBytes s.cfg.lw := by bv_omega
  unfold feedLen
  rw [if_neg hk]
  exact if_pos h1

theorem lengthDone_none {s : State} (h : paramCount s.cfg.lc s.L = none) :
    lengthDone s = resync s .lengthMismatch := by simp [lengthDone, h]

theorem lengthDone_budget {s : State} {n : BitVec 16} (h : paramCount s.cfg.lc s.L = some n)
    (hn : s.cfg.maxPayload < n) : lengthDone s = resync s .budgetExceeded := by
  simp [lengthDone, h, hn]

theorem lengthDone_accept {s : State} {n : BitVec 16} (h : paramCount s.cfg.lc s.L = some n)
    (hn : n ≤ s.cfg.maxPayload) :
    lengthDone s = { s with P := n, k := 0#16, st := if 0#16 < n then .readingPayload else .readingChecksumEnd } := by
  simp only [lengthDone, h, if_neg (BitVec.not_lt.2 hn)]
  split <;> rfl

/-- A parameter byte at an index of the buffer is stored. -/
theorem feedPay_next {s : State} (h : s.k < s.params.bufDepth) (b : Byte) :
    feedPay b s = .next (payDone { s with buf := Memory.write s.buf s.k.toNat b }) := by
  have h1 : memWrite s s.k.toNat b = .ok { s with buf := Memory.write s.buf s.k.toNat b } := memWrite_ok.2 ⟨h, rfl⟩
  simp [feedPay, h1]

theorem feedPay_fault {s : State} (h : s.params.bufDepth ≤ s.k) (b : Byte) :
    feedPay b s = .fault (.bufferIndex s.k.toNat) := by
  have h1 : memWrite s s.k.toNat b = .error (.bufferIndex s.k.toNat) := if_neg (Nat.not_lt.2 h)
  simp [feedPay, h1]

theorem payDone_eq (s : State) :
    payDone s = { s with
      c := s.c + 1#32
      k := if s.k + 1#16 = s.P then 0#16 else s.k + 1#16
      st := if s.k + 1#16 = s.P then .readingChecksumEnd else s.st } := by
  unfold payDone
  by_cases h : s.k + 1#16 = s.P
  · simp only [if_pos h]
  · simp only [if_neg h]

theorem feedEnd_wrongEnd {s : State} {b : Byte} (h : b ≠ s.cfg.endByte) :
    feedEnd b s = .next (resync { s with c := s.c + 1#32 } .unexpectedStartEnd) := if_pos h

theorem feedEnd_rightEnd (s : State) :
    feedEnd s.cfg.endByte s = match memReadRange s 0 s.P.toNat with
      | .error e => .fault e
      | .ok params => .next (checkFrame { s with c := s.c + 1#32 } params) := by
  have h1 : memReadRange { s with c := s.c + 1#32 } 0 s.P.toNat = memReadRange s 0 s.P.toNat :=
    memReadRange_congr (s := s) (t := { s with c := s.c + 1#32 }) rfl rfl 0 s.P.toNat
  cases h : memReadRange s 0 s.P.toNat with
  | error e => simp [feedEnd, h1, h]
  | ok params => simp [feedEnd, h1, h]

/-- The end position with a good end byte and a readable buffer. -/
theorem feedEnd_good {s : State} {params : List Byte} (h : memReadRange s 0 s.P.toNat = .ok params) :
    feedEnd s.cfg.endByte s = .next (checkFrame { s with c := s.c + 1#32 } params) := by
  rw [feedEnd_rightEnd, h]

theorem feedEnd_fault {s : State} {e : Fault} (h : memReadRange s 0 s.P.toNat = .error e) :
    feedEnd s.cfg.endByte s = .fault e := by
  rw [feedEnd_rightEnd, h]

theorem checkFrame_bad {s : State} {params : List Byte}
    (h : s.rx ≠ computeChecksum s.params s.cfg.alg (checksumSpan s.cfg s.cmd s.L params)) :
    checkFrame s params = resync s .badChecksum := if_pos h

theorem checkFrame_good {s : State} {params : List Byte}
    (h : s.rx = computeChecksum s.params s.cfg.alg (checksumSpan s.cfg s.cmd s.L params)) :
    checkFrame s params = toSeek (emit s (.frame ⟨s.cmd, params, s.rx⟩)) := if_neg (not_not.2 h)

end Sys2Proof.Machine
end

