-- ==== Sys2Proof/Laws/FrameCheck.lean ====
section
/-! SUPPORT. The length field both ways, and the XOR checksum of a longer span. -/

namespace Sys2Proof.Machine

/-- Reading a written length field gives the length, where it fits the field (30_encoding.md R81). -/
theorem lengthValue_lenBytes (w : LengthWidth) (l : BitVec 16) (h : w = .one → l < 256#16) :
    lengthValue (lenBytes w l) = l := by
  cases w with
  | one =>
    have := h rfl
    simp only [lenBytes, lengthValue, addLengthByte, List.foldl_cons, List.foldl_nil]
    apply BitVec.eq_of_toNat_eq
    simp [BitVec.toNat_setWidth, BitVec.extractLsb'_toNat]
    bv_omega
  | two =>
    simp [lenBytes, lengthValue, addLengthByte, bytesBE]
    apply BitVec.eq_of_getLsbD_eq
    intro i hi
    by_cases h8 : i < 8
    · simp [h8, hi]
    · simp [h8, hi, show i - 8 < 8 by omega, show 8 + (i - 8) = i by omega]

/-- Writing a length field that was read gives its bytes again. -/
theorem lenBytes_lengthValue (w : LengthWidth) (bs : List Byte) (h : bs.length = lengthBytes w) :
    lenBytes w (lengthValue bs) = bs ∧ (w = .one → lengthValue bs < 256#16) := by
  cases w with
  | one =>
    obtain ⟨a, rfl⟩ := List.length_eq_one_iff.1 h
    constructor
    · simp [lenBytes, lengthValue, addLengthByte]
      ext i hi
      simp [hi]
      omega
    · intro _
      simp [lengthValue, addLengthByte]
      bv_omega
  | two =>
    obtain ⟨a, b, rfl⟩ := List.length_eq_two.1 h
    refine ⟨?_, by simp⟩
    simp [lenBytes, lengthValue, addLengthByte, bytesBE]
    constructor
    · apply BitVec.eq_of_getLsbD_eq
      intro i hi
      simp [hi, show 8 + i < 16 by omega, show ¬ (8 + i < 8) by omega, show 8 + i - 8 = i by omega,
        BitVec.getLsbD_eq_getElem]
    · apply BitVec.eq_of_getLsbD_eq
      intro i hi
      simp [hi, show i < 16 by omega]

theorem lengthValue_append (bs : List Byte) (b : Byte) : lengthValue (bs ++ [b]) = addLengthByte (lengthValue bs) b := by
  simp [lengthValue]

/-- The declared length of the count a declared length gives (41_frame_check.md R122, R128). -/
theorem declaredLength_paramCount {c : LengthPolicy} {l n : BitVec 16} (h : paramCount c l = some n) :
    declaredLength c n.toNat = l.toNat := by
  cases c with
  | payloadOnly =>
    cases h
    rfl
  | payloadPlusCommand =>
    rw [paramCount_plus] at h
    split at h
    · cases h
    · cases h
      simp only [declaredLength]
      bv_omega

/-- The count of a declared length that fits 16 bits. -/
theorem paramCount_declaredLength (c : LengthPolicy) (n : Nat) (h : declaredLength c n < 65536) :
    paramCount c (BitVec.ofNat 16 (declaredLength c n)) = some (BitVec.ofNat 16 n) := by
  cases c with
  | payloadOnly => rfl
  | payloadPlusCommand =>
    simp only [declaredLength] at h ⊢
    rw [paramCount_plus, if_neg (by bv_omega)]
    congr 1
    bv_omega

theorem xor8_foldl (bs : List Byte) (a : Byte) : bs.foldl (· ^^^ ·) a = a ^^^ xor8 bs := by
  unfold xor8
  induction bs generalizing a with
  | nil => simp
  | cons b bs ih =>
    rw [List.foldl_cons, List.foldl_cons, ih, ih (0 ^^^ b)]
    simp [BitVec.xor_assoc]

theorem xor8_cons (b : Byte) (bs : List Byte) : xor8 (b :: bs) = b ^^^ xor8 bs := by
  show (b :: bs).foldl (· ^^^ ·) 0 = _
  rw [List.foldl_cons, xor8_foldl]
  simp

end Sys2Proof.Machine
end

