-- ==== Sys2Proof/Laws/PerInstr.lean ====
section
/-! SUPPORT. The per-instruction family RowMatch: the word of a well-formed command lies in its row of
spec/opcode_table.json. -/

namespace Sys2Proof.Laws.RowMatch

/-- The `mask` of a command's row. -/
def mask : Instr → Word
  | .feed _ _ => 0x3FFFFFFFF00
  | .reset _ => 0x3FFFFFFFFFF
  | .configure _ _ _ _ _ _ _ => 0x30000000000
  | .reservedOp3 _ => 0x30000000000

/-- The `match` of a command's row. -/
def pattern : Instr → Word
  | .feed _ _ => 0x00000000000
  | .reset _ => 0x10000000000
  | .configure _ _ _ _ _ _ _ => 0x20000000000
  | .reservedOp3 _ => 0x30000000000

/-- The encoding of a well-formed command has the bits its row fixes. -/
def Statement (i : Instr) : Prop := i.WellFormed = true → encode i &&& mask i = pattern i

/-- A word under the op mask is its op field, in its place. -/
theorem and_op_mask {w : Word} {op : BitVec 2} (h40 : w.getLsbD 40 = op.getLsbD 0) (h41 : w.getLsbD 41 = op.getLsbD 1) :
    w &&& 0x30000000000#42 = (op ++ 0#40 : Word) := by
  have h : (0x30000000000#42 : Word) = 3#2 ++ 0#40 := by decide
  apply BitVec.eq_of_getLsbD_eq
  intro i hi
  rw [BitVec.getLsbD_and, opArg_getLsbD, h, opArg_getLsbD]
  split
  · simp
  · have : i = 40 ∨ i = 41 := by omega
    rcases this with rfl | rfl
    · simpa using h40
    · simpa using h41

theorem feed (rsv : BitVec 32) (b : Byte) : Statement (.feed rsv b) := by
  intro h
  simp only [Instr.WellFormed, beq_iff_eq] at h
  subst h
  simp only [encode, mask, pattern]
  ext i hi
  simp only [BitVec.getElem_and, BitVec.getElem_append]
  split
  · have : (0x3FFFFFFFF00#42)[i] = false := by
      revert i
      decide
    simp [this]
  · split <;> simp

theorem reset (rsv : BitVec 40) : Statement (.reset rsv) := by
  intro h
  simp only [Instr.WellFormed, beq_iff_eq] at h
  subst h
  simp only [encode, mask, pattern]
  decide

theorem configure (start stop : Byte) (alg : BitVec 2) (lw lc : BitVec 1) (rsv : BitVec 4) (maxPayload : BitVec 16) :
    Statement (.configure start stop alg lw lc rsv maxPayload) := by
  intro _
  have h := encode_configure_getLsbD start stop alg lw lc rsv maxPayload
  simpa [mask, pattern] using and_op_mask (op := 2#2) (h 40) (h 41)

theorem reservedOp3 (arg : BitVec 40) : Statement (.reservedOp3 arg) := by
  intro _
  have h := encode_reservedOp3_getLsbD arg
  simpa [mask, pattern] using and_op_mask (op := 3#2) (h 40) (h 41)

end Sys2Proof.Laws.RowMatch
end

