-- ==== Sys2Proof/Laws/Stream.lean ====
section
/-! SUPPORT. What a FEED never changes, and how a sequence of FEEDs is taken apart. -/

namespace Sys2Proof.Machine

/-- What a FEED never changes. -/
theorem feedByte_keeps {s t : State} {b : Byte} (h : feedByte b s = .next t) :
    t.params = s.params ∧ t.cfg = s.cfg ∧ t.cfgValid = s.cfgValid ∧ t.input = s.input ∧ t.fCfg = s.fCfg ∧
      t.fOp = s.fOp := by
  unfold feedByte at h
  split at h
  · cases h; simp
  · cases h; unfold feedSeek reportGarbage; (repeat' split) <;> simp
  · cases h
    unfold feedLen lengthDone
    dsimp only
    (repeat' split) <;> simp
  · by_cases hk : s.k < s.params.bufDepth
    · rw [feedPay_next hk] at h
      cases h
      simp [payDone_eq]
    · rw [feedPay_fault (BitVec.not_lt.1 hk)] at h
      cases h
  · split at h
    · cases h; simp [feedCsum]
    · by_cases hb : b = s.cfg.endByte
      · rw [hb, feedEnd_rightEnd] at h
        split at h
        · cases h
        · cases h; unfold checkFrame; split <;> simp
      · rw [feedEnd_wrongEnd hb] at h
        cases h
        simp

theorem execAll_cons {i : Instr} {is : List Instr} {s t : State} (h : execAll (i :: is) s = .next t) :
    ∃ u, exec i s = .next u ∧ execAll is u = .next t := by
  simp only [execAll] at h
  split at h
  · exact ⟨_, by assumption, h⟩
  · cases h
  · cases h

@[simp] theorem feedAll_nil (s : State) : feedAll [] s = .next s := rfl

theorem feedAll_cons (b : Byte) (bs : List Byte) (s : State) :
    feedAll (b :: bs) s = match feedByte b s with
      | .next t => feedAll bs t
      | .fault e => .fault e
      | .refused r => .refused r := by
  unfold feedAll feedCommands
  simp only [List.map_cons, execAll, exec, execFeed_zero]
  cases feedByte b s <;> rfl

theorem feedAll_cons_next {b : Byte} {bs : List Byte} {s t : State} (h : feedByte b s = .next t) :
    feedAll (b :: bs) s = feedAll bs t := by
  rw [feedAll_cons, h]

/-- Feeding one sequence after another is feeding both (42_stream.md R154). -/
theorem feedAll_append (xs ys : List Byte) (s : State) :
    feedAll (xs ++ ys) s = match feedAll xs s with
      | .next t => feedAll ys t
      | .fault e => .fault e
      | .refused r => .refused r := by
  induction xs generalizing s with
  | nil => rfl
  | cons b xs ih =>
    rw [List.cons_append, feedAll_cons, feedAll_cons]
    cases feedByte b s with
    | next t => exact ih t
    | fault _ => rfl
    | refused _ => rfl

theorem feedAll_append_next {xs ys : List Byte} {s t : State} (h : feedAll xs s = .next t) :
    feedAll (xs ++ ys) s = feedAll ys t := by
  rw [feedAll_append, h]

end Sys2Proof.Machine
end

