-- ==== Sys2Proof/Tests/Slice0.lean ====
section
/-! SUPPORT. Tests of the model against the spec's worked examples and vectors, and a witness for every statement that
has hypotheses. The vectors' instance: `BUF_DEPTH = 64`, CRC16 as 00_scope.md R8 gives it for testing. -/

namespace Sys2Proof.Machine.Tests

/-! ## Ill-formed commands -/

theorem test_wellFormed_refuses_feed_reserved : Instr.WellFormed (.feed 1 0xAA) = false := by decide

theorem test_wellFormed_refuses_feed_top_reserved : Instr.WellFormed (.feed 0x80000000 0xAA) = false := by decide

theorem test_wellFormed_refuses_reset_reserved : Instr.WellFormed (.reset 0x8000000000) = false := by decide

theorem test_wellFormed_accepts :
    Instr.WellFormed (.feed 0 0xFF) = true ∧ Instr.WellFormed (.reset 0) = true ∧
      Instr.WellFormed (.configure 0xFF 0xFF 3 1 1 15 0xFFFF) = true ∧
      Instr.WellFormed (.reservedOp3 0xFFFFFFFFFF) = true := by decide

/-! ## Words written out from the encodings (30_encoding.md R72 to R74) -/

theorem test_decode_feed :
    decode 0b00_00000000000000000000000000000000_10101010 = .feed 0 0b10101010 := by decide

theorem test_decode_feed_reserved :
    decode 0b00_10000000000000000000000000000001_10101010 = .feed 0x80000001 0b10101010 := by decide

theorem test_decode_reset : decode 0b01_0000000000000000000000000000000000000000 = .reset 0 := by decide

theorem test_decode_configure :
    decode 0b10_0000000001000000_0000_0_1_01_11011101_10101010
      = .configure 0b10101010 0b11011101 0b01 0b1 0b0 0b0000 0b0000000001000000 := by decide

theorem test_decode_configure_fields :
    decode 0b10_1000000000000001_1001_1_0_10_01111110_10111011
      = .configure 0b10111011 0b01111110 0b10 0b0 0b1 0b1001 0b1000000000000001 := by decide

theorem test_decode_reservedOp3 :
    decode 0b11_1000000000000000000000000000000000000001 = .reservedOp3 0x8000000001 := by decide

/-- A number with a bit at position 42 is no command word. -/
theorem test_decodeTableWord :
    decodeTableWord 48 0x10000000000 = some (.reset 0) ∧ decodeTableWord 48 0x40000000000 = none := by decide

/-! ## Small states -/

/-- The test instance of 00_scope.md R8. -/
def testParams : Params := ⟨64, 64, .xor, 0x1021, 0xFFFF, false, false, 0x0000⟩

/-- Power-on with the test instance. -/
def idle : State := { State.reset with params := testParams }

/-- Configured, between frames. -/
def seeking (d : Dialect) : State := { idle with cfg := d, cfgValid := true, st := .seekingStart }

def r200 (a : Alg) : Dialect := dialectR200 a 64

/-- One length byte that counts the command, and a budget of 2. -/
def narrow : Dialect := ⟨0x55, 0x55, .crc16, .one, .payloadPlusCommand, 2⟩

/-- In an attempt, `k` bytes after the start byte. -/
def atLength (d : Dialect) (k : Nat) : State :=
  { seeking d with st := .readingLength, k := BitVec.ofNat 16 k, c := BitVec.ofNat 32 (1 + k), cmd := 0x22 }

/-- In R200's parameter field, `k` of `p` bytes taken, all zero. -/
def atParameter (a : Alg) (p k : Nat) : State :=
  { seeking (r200 a) with
    st := .readingPayload, k := BitVec.ofNat 16 k, c := BitVec.ofNat 32 (4 + k), cmd := 0x22
    L := BitVec.ofNat 16 p, P := BitVec.ofNat 16 p, buf := (List.range k).map fun i => (i, 0#8) }

/-- In R200's checksum field after the parameters 1, 2, with `rx` taken. -/
def atChecksum (a : Alg) (rx : List Byte) : State :=
  { seeking (r200 a) with
    st := .readingChecksumEnd, k := BitVec.ofNat 16 rx.length, c := BitVec.ofNat 32 (6 + rx.length), cmd := 0x22
    L := 2, P := 2, buf := [(0, 1#8), (1, 2#8)], rx := rx }

/-- A state that no run reaches: it is at the end position and nothing was buffered. -/
def unbuffered : State := { atChecksum .none [] with buf := [] }

/-- A state that no run reaches: the next parameter's index does not exist. -/
def outside : State := { atParameter .xor 65 0 with k := 64 }

/-- The state a command leads to, itself where it stops. -/
def after (i : Instr) (s : State) : State :=
  match exec i s with
  | .next t => t
  | .fault _ => s
  | .refused _ => s

/-- The frame of 42_stream.md R140's example. -/
def emptyFrame : List Byte := [0xAA, 0x22, 0x00, 0x00, 0x22, 0xDD]

/-! ## One step per command -/

/-- 42_stream.md R141's example: STATUS bit 4. -/
theorem test_feed_unconfigured : status (after (.feed 0 0xAA) idle) = 0x0010 := by decide

/-- 42_stream.md R147's example: the checksum is wrong at the end byte. -/
theorem test_feed_badChecksum :
    (after (.feed 0 0xDD) { atChecksum .xor [0x24] with cmd := 0x22 }).events = [.resync 8 .badChecksum] := by decide

/-- 43_control.md R170's example: the garbage run is dropped. -/
theorem test_reset : after (.reset 0) { seeking (r200 .xor) with g := 1 } = seeking (r200 .xor) := by decide

/-- 43_control.md R171's example: CONFIGURE_R200 from power-on. -/
theorem test_configure : status (after (decode 0x2004005DDAA) idle) = 0x0009 := by decide

/-- 43_control.md R173's example: alg = 3 from SEEKING_START. -/
theorem test_configure_illegal : status (after (decode 0x2004007DDAA) (seeking (r200 .xor))) = 0x0020 := by decide

/-- 43_control.md R175's example: STATUS bit 6. -/
theorem test_reservedOp3 : status (after (decode 0x30000000000) (seeking (r200 .xor))) = 0x0049 := by decide

/-- 43_control.md R176's example: 0xAA is not taken. -/
theorem test_feed_reserved :
    after (decode 0x000000001AA) (seeking (r200 .xor)) = { seeking (r200 .xor) with fOp := true } := by decide

/-- The first instruction after reset is the presented one. -/
theorem test_withFetchWord : step (State.reset.withFetchWord 48 0x30000000000) = .next { State.reset with fOp := true } :=
  rfl

/-! ## Checksum, frame check and encoder vectors (95_test_vectors.md) -/

/-- 40_checksum.md R103's examples. -/
theorem test_xor : xor8 [0x22, 0x00, 0x00] = 0x22 ∧ xor8 [0x01, 0x02, 0x04, 0x08] = 0x0F ∧ xor8 [] = 0 := by decide

/-- 40_checksum.md R104's examples. -/
theorem test_crc16 :
    crc16 testParams ("123456789".toList.map fun ch => BitVec.ofNat 8 ch.toNat) = 0x29B1 ∧
      crc16 testParams [0x22, 0x00, 0x00] = 0x243A ∧ crc16 testParams [] = 0xFFFF := by
  decide +kernel

/-- 41_frame_check.md R128's example. -/
theorem test_frameEncode : frameEncode testParams (r200 .xor) 0x22 [] = .ok emptyFrame := rfl

/-- 41_frame_check.md R124's example. -/
theorem test_frameDecode : frameDecode testParams (r200 .xor) emptyFrame = .ok ⟨0x22, [], [0x22]⟩ := rfl

/-- The slice `[d.start]` (41_frame_check.md R124). -/
theorem test_frameDecode_truncated : frameDecode testParams (r200 .xor) [0xAA] = .error .truncated := rfl

/-! ## The assembler (30_encoding.md R85 to R87) -/

theorem test_assemble_feed : assembleText testParams "FEED 0xAA ; a byte".toList = .ok [0x000000000AA] := by rfl

theorem test_assemble_configure :
    assembleText testParams "CONFIGURE start=0xBB, end=0x7E, alg=CRC16, lw=2, lc=PAYLOAD_ONLY, maxp=64".toList
      = .ok [0x20040067EBB] := by rfl

theorem test_assemble_preset : assembleText testParams "CONFIGURE_R200 alg=XOR".toList = .ok [0x2004005DDAA] := by rfl

theorem test_assemble_refuses :
    assembleText testParams "FEED 256".toList = .error .byteRange ∧
      assembleText testParams "CONFIGURE start=1, start=2".toList = .error .duplicateKey ∧
      assembleText testParams "CONFIGURE start=1".toList = .error .missingKey := ⟨by rfl, by rfl, by rfl⟩

/-- Decimal, hexadecimal of either case, and what is no number. -/
theorem test_parseNumber :
    parseNumber "255".toList = some 255 ∧ parseNumber "0x7e".toList = some 0x7E ∧ parseNumber "0x7E".toList = some 0x7E ∧
      parseNumber "0".toList = some 0 ∧ parseNumber "0x".toList = none ∧ parseNumber "7E".toList = none ∧
      parseNumber "0xG".toList = none ∧ parseNumber "".toList = none := by decide

theorem test_assemble_word42 : assembleText testParams ".word42 0x30000000000".toList = .ok [0x30000000000] := by rfl

/-! ## Witnesses: concrete states and operands that meet the hypotheses of a statement

Each theorem is named after the statement it serves. -/

theorem witness_StepPerformsDecodedCommand :
    (present idle 0x000000000AA).input = 0x000000000AA :: [] ∧ (exec (decode 0x000000000AA) idle) = .next { idle with fUnconf := true } :=
  ⟨rfl, rfl⟩

theorem witness_StepWithoutCommandWaits : (seeking (r200 .xor)).input = [] := rfl

/-- Each clause, at the lowest and the highest reserved bit. -/
theorem witness_ReservedWordsOnlySetOpFault :
    (0x100#40).extractLsb' 8 32 ≠ 0#32 ∧ (0x8000000000#40).extractLsb' 8 32 ≠ 0#32 ∧ 0x1#40 ≠ 0#40 ∧
      0x8000000000#40 ≠ 0#40 := by decide

theorem witness_ResetRestartsResynchronizer_twice :
    exec (.reset 0#40) (atLength (r200 .xor) 1) = .next { seeking (r200 .xor) with cmd := 0x22 } := rfl

theorem idle_inv : idle.Inv :=
  ⟨by decide, by decide, by decide, by decide, by decide, by decide, by show State.AttemptIdle _; decide⟩

theorem witness_ResetRestartsResynchronizer_unconfigured : idle.Inv ∧ idle.st = .unconfigured := ⟨idle_inv, rfl⟩

/-- Each legal algorithm, and the budget at `BUF_DEPTH` and at 0. -/
theorem witness_LegalConfigureLoadsDialect :
    0#2 ≠ 3#2 ∧ 1#2 ≠ 3#2 ∧ 2#2 ≠ 3#2 ∧ 64#16 ≤ idle.params.bufDepth ∧ 0#16 ≤ idle.params.bufDepth := by decide

/-- Each clause alone: a reserved bit, and the first budget above `BUF_DEPTH`. -/
theorem witness_IllegalConfigureLeavesUnconfigured :
    8#4 ≠ 0#4 ∧ idle.params.bufDepth < 65#16 ∧ ¬ idle.params.bufDepth < 64#16 := by decide

theorem witness_OnlyLegalConfigureLeavesUnconfigured :
    idle.st = .unconfigured ∧ idle.cfgValid = false ∧
      exec (configureCommand (r200 .xor)) idle = .next (seeking (r200 .xor)) ∧ exec (.reset 0#40) idle = .next idle :=
  ⟨rfl, rfl, rfl, rfl⟩

theorem witness_CfgValidTellsLastConfigureLegal :
    execAll [.reset 0#40] State.reset = .next State.reset ∧
      execAll [configureCommand (r200 .xor), .reset 0#40] idle = .next (seeking (r200 .xor)) ∧
      execAll [.configure 0 0 3 0 0 0 0, .reset 0#40] idle = .next { idle with fCfg := true } := ⟨rfl, rfl, rfl⟩

theorem witness_ConfigurationChangesOnlyByConfigure :
    exec (.configure 0 0 3 0 0 0 0) (seeking (r200 .xor)) =
        .next { seeking (r200 .xor) with cfgValid := false, st := .unconfigured, fCfg := true } ∧
      exec (.feed 0 0) (seeking (r200 .xor)) = .next { seeking (r200 .xor) with g := 1 } := ⟨rfl, rfl⟩

theorem witness_FeedUnconfiguredSetsFault : idle.st = .unconfigured := rfl

/-- The start byte with no garbage run, the start byte after one, and a byte skipped where the counter is saturated. -/
theorem witness_FeedSeekingStart :
    (after (.feed 0 0xAA) (seeking (r200 .xor))).events = [] ∧
      (after (.feed 0 0xAA) { seeking (r200 .xor) with g := 2 }).events = [.resync 2 .noStart] ∧
      (after (.feed 0 0x11) { seeking (r200 .xor) with g := 0xFFFFFFFF }).g = 0xFFFFFFFF ∧
      (after (.feed 0 0x11) { seeking (r200 .xor) with g := 0xFFFFFFFE }).g = 0xFFFFFFFF := by decide

/-- The command code, and the first of two length bytes. -/
theorem witness_FeedReadsCommandCodeAndLength :
    (atLength (r200 .xor) 0).k.toNat ≠ lengthBytes .two ∧ (atLength (r200 .xor) 1).k.toNat ≠ lengthBytes .two ∧
      (after (.feed 0 0x7E) (atLength (r200 .xor) 0)).cmd = 0x7E ∧
      (after (.feed 0 0x01) (atLength (r200 .xor) 1)).L = 0x0001 := by decide

theorem atLength_narrow_inv : (atLength narrow 1).Inv :=
  ⟨by decide, by decide, by decide, by decide, by decide, by decide, by show _ ∧ _; decide⟩

/-- Each clause at its boundary: a zero length that counts the command, the first `P` above the budget, `P` at the
budget, and `P` 0. -/
theorem witness_FeedChecksDeclaredLength :
    (atLength narrow 1).k.toNat = lengthBytes narrow.lw ∧
      (after (.feed 0 0) (atLength narrow 1)).events = [.resync 3 .lengthMismatch] ∧
      (after (.feed 0 4) (atLength narrow 1)).events = [.resync 3 .budgetExceeded] ∧
      ((after (.feed 0 3) (atLength narrow 1)).st = .readingPayload ∧ (after (.feed 0 3) (atLength narrow 1)).P = 2) ∧
      ((after (.feed 0 1) (atLength narrow 1)).st = .readingChecksumEnd ∧ (after (.feed 0 1) (atLength narrow 1)).P = 0) := by
  decide

/-- The last index of the buffer and of the parameters, and the first of two. -/
theorem witness_FeedBuffersParameterByte :
    ((atParameter .xor 64 63).k < testParams.bufDepth ∧ (atParameter .xor 64 63).k + 1#16 = (atParameter .xor 64 63).P) ∧
      ((atParameter .xor 2 0).k < testParams.bufDepth ∧ (atParameter .xor 2 0).k + 1#16 ≠ (atParameter .xor 2 0).P) := by
  decide

/-- The last of two checksum bytes, and the only one. -/
theorem witness_FeedTakesChecksumByte :
    (atChecksum .crc16 [0x24]).k.toNat < checksumWidth .crc16 ∧ (atChecksum .xor []).k.toNat < checksumWidth .xor := by
  decide

theorem atChecksum_end_inv : (atChecksum .xor [0x23]).Inv :=
  ⟨by decide, by decide, by decide, by decide, by decide, by decide, by show _ ∧ _; decide⟩

/-- Each clause: a wrong end byte, a wrong checksum, and the frame, with two parameters and with none. -/
theorem witness_FeedEndsFrame :
    (checksumWidth .xor ≤ (atChecksum .xor [0x23]).k.toNat ∧ (atChecksum .xor [0x23]).P ≤ testParams.bufDepth ∧
      ∀ j (h : j < [1#8, 2#8].length), Memory.read (atChecksum .xor [0x23]).buf j = some [1#8, 2#8][j]) ∧
      (after (.feed 0 0xDE) (atChecksum .xor [0x23])).events = [.resync 8 .unexpectedStartEnd] ∧
      (after (.feed 0 0xDD) (atChecksum .xor [0x22])).events = [.resync 8 .badChecksum] ∧
      (after (.feed 0 0xDD) (atChecksum .xor [0x23])).events = [.frame ⟨0x22, [1, 2], [0x23]⟩] ∧
      (after (.feed 0 0xDD) { atChecksum .xor [0x22] with L := 0, P := 0, c := 5 }).events = [.frame ⟨0x22, [], [0x22]⟩] := by
  decide

theorem witness_FeedFrame :
    exec (.feed 1 0xAA) idle = .next { idle with fOp := true } ∧ exec (.feed 0 0xAA) idle = .next { idle with fUnconf := true } :=
  ⟨rfl, rfl⟩

theorem witness_ControlCommandsFrame :
    exec (.reset 1) idle = .next { idle with fOp := true } ∧ exec (.reservedOp3 7) idle = .next { idle with fOp := true } ∧
      exec (configureCommand (r200 .xor)) (atParameter .xor 2 1) =
        .next { seeking (r200 .xor) with cmd := 0x22, buf := [(0, 0#8)] } := ⟨rfl, rfl, rfl⟩

/-- Each flag is set by its misuse. -/
theorem witness_FlagsRecordExactlyTheMisuse :
    exec (.feed 0 0) idle = .next { idle with fUnconf := true } ∧
      exec (.configure 0 0 0 0 0 1 0) idle = .next { idle with fCfg := true } ∧
      exec (.configure 0 0 0 0 0 0 65) idle = .next { idle with fCfg := true } ∧
      exec (.reset 1) idle = .next { idle with fOp := true } := ⟨rfl, rfl, rfl, rfl⟩

/-- A step without an event, and one in each of the three places that emit one. -/
theorem witness_AtMostOneEventPerCommand :
    (after (.feed 0 0) (seeking (r200 .xor))).events = [] ∧
      (after (.feed 0 0xAA) { seeking (r200 .xor) with g := 1 }).events = [.resync 1 .noStart] ∧
      (after (.feed 0 0) (atLength narrow 1)).events = [.resync 3 .lengthMismatch] ∧
      (after (.feed 0 0) (atChecksum .xor [0x23])).events = [.resync 8 .unexpectedStartEnd] := by decide

theorem witness_EmittedEventsAreMeaningful :
    (atChecksum .xor [0x23]).Inv ∧
      (after (.feed 0 0xDD) (atChecksum .xor [0x23])).events = [] ++ [.frame ⟨0x22, [1, 2], [0x23]⟩] ∧
      (after (.feed 0 0xDE) (atChecksum .xor [0x23])).events = [] ++ [.resync 8 .unexpectedStartEnd] :=
  ⟨atChecksum_end_inv, by decide, by decide⟩

/-- Each clause, with the start byte and the end byte as data. -/
theorem witness_NoByteIsSpecialInsideAttempt :
    (after (.feed 0 0xAA) (atLength (r200 .xor) 0)).k = (after (.feed 0 0xDD) (atLength (r200 .xor) 0)).k ∧
      (after (.feed 0 0xAA) (atParameter .xor 2 1)).st = (after (.feed 0 0xDD) (atParameter .xor 2 1)).st ∧
      (after (.feed 0 0xAA) (atChecksum .xor [])).k = (after (.feed 0 0xDD) (atChecksum .xor [])).k := by decide

theorem witness_AttemptEndsWithItsOnlyEvent :
    ((atParameter .xor 2 1).st ≠ .unconfigured ∧ (atParameter .xor 2 1).st ≠ .seekingStart ∧
      (after (.feed 0 0xAA) (atParameter .xor 2 1)).st = .readingChecksumEnd) ∧
      (after (.feed 0 0xDE) (atChecksum .xor [0x23])).st = .seekingStart ∧
      (after (.feed 0 0) (atLength narrow 1)).st = .seekingStart := by decide

theorem witness_EveryByteIsAccountedFor :
    (atChecksum .xor [0x23]).Inv ∧ (atChecksum .xor [0x23]).cfgValid = true ∧
      feedAll [0xDD, 0x11] (atChecksum .xor [0x23]) = .next { seeking (r200 .xor) with
        cmd := 0x22, buf := [(0, 1#8), (1, 2#8)], g := 1, events := [.frame ⟨0x22, [1, 2], [0x23]⟩] } :=
  ⟨atChecksum_end_inv, rfl, rfl⟩

/-- Both stops, in states that no run reaches. -/
theorem witness_CommandStopsExactlyOnMissingBufferByte :
    exec (.feed 0 0) outside = .fault (.bufferIndex 64) ∧ exec (.feed 0 0xDD) unbuffered = .fault (.bufferUnwritten 0) :=
  ⟨rfl, rfl⟩

theorem atParameter_inv : (atParameter .xor 2 1).Inv :=
  ⟨by decide, by decide, by decide, by decide, by decide, by decide, by show _ ∧ _; decide⟩

theorem present_inv : (present (atParameter .xor 2 1) 0x000000000AA).Inv :=
  ⟨by decide, by decide, by decide, by decide, by decide, by decide, by show _ ∧ _; decide⟩

theorem seeking_inv (a : Alg) : (seeking (r200 a)).Inv := by
  cases a <;>
    exact ⟨by decide, by decide, by decide, by decide, by decide, by decide, by show State.AttemptIdle _; decide⟩

theorem witness_InvariantKeptByEveryStep :
    (present (atParameter .xor 2 1) 0x000000000AA).Inv ∧
      step (present (atParameter .xor 2 1) 0x000000000AA) = .next { atChecksum .xor [] with buf := [(0, 0#8), (1, 0xAA#8)] } :=
  ⟨present_inv, rfl⟩

/-- The invariant in each resynchronizer state. -/
theorem witness_EveryCommandCompletesUnderInvariant :
    idle.Inv ∧ (seeking (r200 .crc16)).Inv ∧ (atLength narrow 1).Inv ∧ (atParameter .xor 2 1).Inv ∧
      (atChecksum .xor [0x23]).Inv :=
  ⟨idle_inv, seeking_inv _, atLength_narrow_inv, atParameter_inv, atChecksum_end_inv⟩

theorem witness_XorChecksumIgnoresOrder : [1#8, 2#8].Perm [2#8, 1#8] := by decide

theorem witness_OneByteChangeChangesChecksum :
    DetectsByteChange testParams .xor ∧ DetectsByteChange testParams .crc16 ∧ 2 < [1#8, 2#8, 3#8].length ∧
      [1#8, 2#8, 3#8][2]? ≠ some 4#8 :=
  ⟨.inl rfl, .inr ⟨rfl, by decide⟩, by decide, by decide⟩

theorem witness_EqualXorChangesOfTwoBytesCancel : 0 < [1#8, 2#8].length ∧ 1 < [1#8, 2#8].length ∧ 0 ≠ 1 := by decide

theorem witness_FrameDecodeOfFrameEncode :
    frameEncode testParams (r200 .none) 0x22 [0xDD] = .ok [0xAA, 0x22, 0x00, 0x01, 0xDD, 0xDD] := rfl

theorem witness_GarbageRunCountsSaturating :
    (seeking (r200 .xor)).st = .seekingStart ∧ ∀ b ∈ [0x00#8, 0x11#8], b ≠ (seeking (r200 .xor)).cfg.startByte := by decide

/-- An attempt that ends with the frame of 42_stream.md R140's example. -/
theorem witness_StreamAgreesWithFrameCheck_attempt :
    (seeking (r200 .xor)).Inv ∧ ∃ t, AttemptEnds emptyFrame (seeking (r200 .xor)) t := by
  refine ⟨seeking_inv _, _, rfl, rfl, rfl, rfl, ?_⟩
  intro n u h0 h1 h
  have h2 : n < 6 := h1
  interval_cases n <;> cases h <;> decide

theorem witness_StreamAgreesWithFrameCheck_converse :
    (seeking (r200 .xor)).Inv ∧ (seeking (r200 .xor)).g = 0#32 ∧
      frameDecode testParams (r200 .xor) emptyFrame = .ok ⟨0x22, [], [0x22]⟩ ∧ 0 ≤ (r200 .xor).maxPayload.toNat :=
  ⟨seeking_inv _, rfl, rfl, by decide⟩

theorem witness_BackToBackFramesAllEmitted :
    (seeking (r200 .xor)).Inv ∧
      ∀ x ∈ [(emptyFrame, (⟨0x22, [], [0x22]⟩ : Frame)), (emptyFrame, ⟨0x22, [], [0x22]⟩)],
        frameDecode testParams (r200 .xor) x.1 = .ok x.2 ∧ x.2.params.length ≤ (r200 .xor).maxPayload.toNat := by
  refine ⟨seeking_inv _, fun x hx => ?_⟩
  simp only [List.mem_cons, List.not_mem_nil, or_false, or_self] at hx
  subst hx
  exact ⟨rfl, by decide⟩

/-- Both clauses: an algorithm that detects the change, and NONE. -/
theorem witness_CorruptedParameterGivesOneResync :
    ((seeking (r200 .xor)).Inv ∧ DetectsByteChange testParams .xor ∧
      frameEncode testParams (r200 .xor) 0x22 [1, 2] = .ok [0xAA, 0x22, 0x00, 0x02, 0x01, 0x02, 0x23, 0xDD]) ∧
      ((seeking (r200 .none)).Inv ∧
        frameEncode testParams (r200 .none) 0x22 [1, 2] = .ok [0xAA, 0x22, 0x00, 0x02, 0x01, 0x02, 0xDD]) ∧
      1 < [1#8, 2#8].length ∧ [1#8, 2#8][1]? ≠ some 3#8 :=
  ⟨⟨seeking_inv _, .inl rfl, rfl⟩, ⟨seeking_inv _, rfl⟩, by decide, by decide⟩

theorem witness_FeedsPseudoWritesOneFeedPerByte : ∃ n ∈ [1, 256], 255 < n := ⟨256, by decide, by decide⟩

end Sys2Proof.Machine.Tests
end

section
/-! Settles the statements of 00_scope.md: a step performs the decoded command (R7), and in every state of the
invariant every command completes and keeps the invariant. -/

namespace Sys2Proof.Machine

/-! ## One step -/

/-- A step performs the command it takes from the channel (00_scope.md R7). -/
theorem step_of_fetch {s s1 : State} {w : Word} (h : fetch s = some (w, s1)) : step s = exec (decode w) s1 := by
  simp only [step, h]

/-- Settles O1. -/
theorem stepPerformsDecodedCommand : Obligations.StepPerformsDecodedCommand := by
  intro s w rest h
  exact step_of_fetch (fetch_cons h)

/-! ## The phase, one equation per resynchronizer state -/

theorem phase_unconfigured {s : State} (h : s.st = .unconfigured) : s.Phase ↔ s.AttemptIdle := by
  simp only [State.Phase, h]

theorem phase_seekingStart {s : State} (h : s.st = .seekingStart) : s.Phase ↔ s.AttemptIdle := by
  simp only [State.Phase, h]

theorem phase_readingLength {s : State} (h : s.st = .readingLength) :
    s.Phase ↔ s.k.toNat ≤ lengthBytes s.cfg.lw ∧ s.c.toNat = 1 + s.k.toNat ∧ s.P = 0#16 ∧ s.rx = [] ∧ s.L < 256#16 ∧
      (s.k.toNat ≤ 1 → s.L = 0#16) := by
  simp only [State.Phase, h]

theorem phase_readingPayload {s : State} (h : s.st = .readingPayload) :
    s.Phase ↔ s.k < s.P ∧ s.c.toNat = 2 + lengthBytes s.cfg.lw + s.k.toNat ∧ s.rx = [] ∧ s.LengthAccepted ∧
      s.Written s.k.toNat := by
  simp only [State.Phase, h]

theorem phase_readingChecksumEnd {s : State} (h : s.st = .readingChecksumEnd) :
    s.Phase ↔ s.k.toNat ≤ checksumWidth s.cfg.alg ∧ s.rx.length = s.k.toNat ∧
      s.c.toNat = 2 + lengthBytes s.cfg.lw + s.P.toNat + s.k.toNat ∧ s.LengthAccepted ∧ s.Written s.P.toNat := by
  simp only [State.Phase, h]

/-! ## The invariant across updates of the state -/

/-- `t` has the parameters, the configuration and the buffer of `s`: what the invariant says beside the counters. -/
abbrev State.SameSetup (s t : State) : Prop :=
  t.params = s.params ∧ t.cfg = s.cfg ∧ t.cfgValid = s.cfgValid ∧ t.buf = s.buf

/-- Inside the configured states only the counters have to be shown again. -/
theorem State.Inv.advance {s t : State} (hs : s.Inv) (hcfg : s.st ≠ .unconfigured) (hsame : s.SameSetup t)
    (hst : t.st ≠ .unconfigured) (hg : t.st ≠ .seekingStart → t.g = 0#32) (hphase : t.Phase) : t.Inv := by
  obtain ⟨hp, hc, hv, hb⟩ := hsame
  have hvalid : s.cfgValid = true := hs.valid_iff.2 hcfg
  refine ⟨?_, ?_, ?_, ?_, ?_, hg, hphase⟩
  · rw [hp]; exact hs.params_ok
  · rw [hb]; exact hs.buf_wf
  · rw [hb, hp]; exact hs.buf_bound
  · rw [hv]; exact iff_of_true hvalid hst
  · rw [hc, hp]; exact fun _ => hs.budget hvalid

/-- An interface fault touches nothing the invariant speaks of (60_exceptions.md R196). -/
theorem raiseFault_inv {s : State} (hs : s.Inv) (f : InterfaceFault) : (raiseFault s f).Inv := by
  cases f <;>
    exact ⟨hs.params_ok, hs.buf_wf, hs.buf_bound, hs.valid_iff, hs.budget, hs.garbage, hs.phase⟩

/-- The end of an attempt, with the event that reports it, restores the invariant from the configured states
(42_stream.md R148). -/
theorem toSeek_emit_inv {s u : State} (hs : s.Inv) (hcfg : s.st ≠ .unconfigured) (hsame : s.SameSetup u)
    (e : Event) : (toSeek (emit u e)).Inv :=
  hs.advance hcfg hsame (by simp) (by simp) ((phase_seekingStart rfl).2 ⟨rfl, rfl, rfl, rfl, rfl⟩)

/-- A write leaves the written indices written and adds its own. -/
theorem Memory.isSome_read_write {m : Memory} {i j : Nat} (b : Byte) (h : j = i ∨ (Memory.read m j).isSome = true) :
    (Memory.read (Memory.write m i b) j).isSome = true := by
  by_cases hji : j = i
  · rw [hji, Memory.read_write_same]; rfl
  · rw [Memory.read_write_other m hji]; exact h.resolve_left hji

theorem State.Written.write {s : State} {n : Nat} (h : s.Written n) (i : Nat) (b : Byte) :
    State.Written { s with buf := Memory.write s.buf i b } n :=
  fun j hj => Memory.isSome_read_write b (.inr (h j hj))

theorem State.Written.write_next {s : State} {n : Nat} (h : s.Written n) (b : Byte) :
    State.Written { s with buf := Memory.write s.buf n b } (n + 1) :=
  fun j hj => Memory.isSome_read_write b ((Nat.lt_succ_iff_lt_or_eq.1 hj).symm.imp id (h j))

/-- A write inside the buffer keeps the counters' phase. -/
theorem State.Phase.write {s : State} (h : s.Phase) (i : Nat) (b : Byte) :
    State.Phase { s with buf := Memory.write s.buf i b } := by
  cases hst : s.st with
  | unconfigured => exact (phase_unconfigured rfl).2 ((phase_unconfigured hst).1 h)
  | seekingStart => exact (phase_seekingStart rfl).2 ((phase_seekingStart hst).1 h)
  | readingLength => exact (phase_readingLength rfl).2 ((phase_readingLength hst).1 h)
  | readingPayload =>
    obtain ⟨hk, hc, hrx, hlen, hw⟩ := (phase_readingPayload hst).1 h
    exact (phase_readingPayload rfl).2 ⟨hk, hc, hrx, hlen, hw.write i b⟩
  | readingChecksumEnd =>
    obtain ⟨hk, hrx, hc, hlen, hw⟩ := (phase_readingChecksumEnd hst).1 h
    exact (phase_readingChecksumEnd rfl).2 ⟨hk, hrx, hc, hlen, hw.write i b⟩

/-- A write below `BUF_DEPTH` keeps the invariant (10_state.md R29). -/
theorem memoryWrite_inv {s : State} (hs : s.Inv) {i : Nat} (hi : i < s.params.bufDepth.toNat) (b : Byte) :
    State.Inv { s with buf := Memory.write s.buf i b } := by
  refine ⟨hs.params_ok, Memory.wf_write hs.buf_wf i b, ?_, hs.valid_iff, hs.budget, hs.garbage, hs.phase.write i b⟩
  intro e he
  rcases Memory.mem_write he with rfl | he
  · exact hi
  · exact hs.buf_bound e he

/-- The accepted parameter count fits the buffer (42_stream.md R144, 43_control.md R172). -/
theorem State.Inv.count_le_bufDepth {s : State} (hs : s.Inv) (hcfg : s.st ≠ .unconfigured) (hlen : s.LengthAccepted) :
    s.P ≤ s.params.bufDepth :=
  BitVec.le_trans hlen.2.1 (hs.budget (hs.valid_iff.2 hcfg))

/-! ## RESET and CONFIGURE -/

theorem restart_attemptIdle (s : State) : (restart s).AttemptIdle := ⟨rfl, rfl, rfl, rfl, rfl⟩

/-- RESET completes and keeps the invariant: performed, or refused for its reserved bits (43_control.md R170, R176). -/
theorem execReset_completes {s : State} (hs : s.Inv) (rsv : BitVec 40) :
    ∃ t, execReset rsv s = .next t ∧ t.Inv := by
  by_cases hr : rsv = 0#40
  · subst hr
    refine ⟨_, execReset_zero s, hs.params_ok, hs.buf_wf, hs.buf_bound, ?_, hs.budget, fun _ => rfl, ?_⟩
    · show s.cfgValid = true ↔ (if s.cfgValid then RxState.seekingStart else .unconfigured) ≠ .unconfigured
      cases s.cfgValid <;> decide
    · cases hv : s.cfgValid with
      | false => exact (phase_unconfigured rfl).2 (restart_attemptIdle s)
      | true => exact (phase_seekingStart rfl).2 (restart_attemptIdle s)
  · exact ⟨_, execReset_rsv hr s, raiseFault_inv hs .op⟩

/-- A Dialect within the buffer, once loaded, gives the invariant (43_control.md R174). -/
theorem loadDialect_inv {s : State} (hs : s.Inv) {d : Dialect} (hd : d.maxPayload ≤ s.params.bufDepth) :
    (loadDialect s d).Inv :=
  ⟨hs.params_ok, hs.buf_wf, hs.buf_bound, by simp, fun _ => hd, by simp,
    (phase_seekingStart rfl).2 (restart_attemptIdle s)⟩

/-- A refused Dialect leaves the invariant of UNCONFIGURED (43_control.md R173). -/
theorem refuseDialect_inv {s : State} (hs : s.Inv) : (refuseDialect s).Inv :=
  ⟨hs.params_ok, hs.buf_wf, hs.buf_bound, by simp, by simp, by simp,
    (phase_unconfigured rfl).2 (restart_attemptIdle s)⟩

/-- CONFIGURE completes and keeps the invariant, whether its operands are legal or not (43_control.md R171). -/
theorem execConfigure_completes {s : State} (hs : s.Inv) (start stop : Byte) (alg : BitVec 2) (lw lc : BitVec 1)
    (rsv : BitVec 4) (m : BitVec 16) : ∃ t, execConfigure start stop alg lw lc rsv m s = .next t ∧ t.Inv := by
  refine ⟨_, rfl, ?_⟩
  cases hd : legalDialect s.params start stop alg lw lc rsv m with
  | none => exact refuseDialect_inv hs
  | some d =>
    obtain ⟨_, _, hm, hdm⟩ := legalDialect_fields hd
    exact loadDialect_inv hs (hdm ▸ hm)

/-! ## FEED, state by state

Where the next state keeps `st`, its phase is opened by `(by exact hst)`: the elaboration has to wait until the next
state is known. -/

theorem feedSeek_start {b : Byte} {s : State} (h : b = s.cfg.startByte) :
    feedSeek b s =
      { reportGarbage s with c := 1#32, L := 0#16, P := 0#16, rx := [], k := 0#16, st := .readingLength } := if_pos h

theorem feedSeek_skip {b : Byte} {s : State} (h : b ≠ s.cfg.startByte) :
    feedSeek b s = { s with g := garbageIncr s.g } := if_neg h

/-- SEEKING_START: the start byte opens an attempt of one byte, any other byte is counted (42_stream.md R142). -/
theorem feedSeek_inv {s : State} (hs : s.Inv) (hst : s.st = .seekingStart) (b : Byte) : (feedSeek b s).Inv := by
  have hcfg : s.st ≠ .unconfigured := by simp [hst]
  by_cases hb : b = s.cfg.startByte
  · rw [feedSeek_start hb]
    exact hs.advance hcfg
      ⟨reportGarbage_params s, reportGarbage_cfg s, reportGarbage_cfgValid s, reportGarbage_buf s⟩ (by simp)
      (fun _ => reportGarbage_g s) ((phase_readingLength rfl).2 ⟨Nat.zero_le _, rfl, rfl, rfl, by simp, fun _ => rfl⟩)
  · rw [feedSeek_skip hb]
    exact hs.advance hcfg ⟨rfl, rfl, rfl, rfl⟩ hcfg (fun h => absurd hst h)
      ((phase_seekingStart (by exact hst)).2 ((phase_seekingStart hst).1 hs.phase))

/-- The first length byte gives a value of one byte (30_encoding.md R81). -/
theorem addLengthByte_zero_lt (b : Byte) : addLengthByte 0#16 b < 256#16 := by
  have h : addLengthByte 0#16 b = b.setWidth 16 := by simp [addLengthByte]
  rw [h]
  bv_omega

/-- `length_done` ends the attempt or opens the field the accepted count asks for (42_stream.md R144). It runs in the
state `u` that has counted the last length byte. -/
theorem lengthDone_inv {s u : State} (hs : s.Inv) (hcfg : s.st ≠ .unconfigured) (hsame : s.SameSetup u)
    (hg : u.g = 0#32) (hrx : u.rx = []) (hc : u.c.toNat = 2 + lengthBytes u.cfg.lw)
    (hL : u.cfg.lw = .one → u.L < 256#16) : (lengthDone u).Inv := by
  have hnone : u.Written 0 := fun _ h => absurd h (Nat.not_lt_zero _)
  cases hp : paramCount u.cfg.lc u.L with
  | none =>
    rw [lengthDone_none hp]
    exact toSeek_emit_inv hs hcfg hsame _
  | some n =>
    by_cases hn : u.cfg.maxPayload < n
    · rw [lengthDone_budget hp hn]
      exact toSeek_emit_inv hs hcfg hsame _
    · have hle : n ≤ u.cfg.maxPayload := BitVec.not_lt.1 hn
      rw [lengthDone_accept hp hle]
      by_cases h0 : 0#16 < n
      · rw [if_pos h0]
        exact hs.advance hcfg hsame (by simp) (fun _ => hg)
          ((phase_readingPayload rfl).2 ⟨h0, hc, hrx, ⟨hp, hle, hL⟩, hnone⟩)
      · obtain rfl : n = 0#16 := by bv_omega
        rw [if_neg h0]
        exact hs.advance hcfg hsame (by simp) (fun _ => hg)
          ((phase_readingChecksumEnd rfl).2 ⟨Nat.zero_le _, by simp [hrx], hc, ⟨hp, hle, hL⟩, hnone⟩)

/-- READING_LENGTH: the command code, a length byte that is not the last, or the last (42_stream.md R143). -/
theorem feedLen_inv {s : State} (hs : s.Inv) (hst : s.st = .readingLength) (b : Byte) : (feedLen b s).Inv := by
  obtain ⟨hk, hc, hP, hrx, hL, hL0⟩ := (phase_readingLength hst).1 hs.phase
  have hcfg : s.st ≠ .unconfigured := by simp [hst]
  have hg : s.g = 0#32 := hs.garbage (by simp [hst])
  have hpos := lengthBytes_pos s.cfg.lw
  have hN := lengthBytes_le s.cfg.lw
  by_cases hk0 : s.k = 0#16
  · have hk0' : s.k.toNat = 0 := by simp [hk0]
    rw [feedLen_code hk0]
    exact hs.advance hcfg ⟨rfl, rfl, rfl, rfl⟩ hcfg (fun _ => hg)
      ((phase_readingLength (by exact hst)).2
        ⟨hpos, show (s.c + 1#32).toNat = 1 + 1 by bv_omega, hP, hrx, hL, fun _ => hL0 (by omega)⟩)
  · have hk1 : 1 ≤ s.k.toNat := by bv_omega
    have hfirst : s.k.toNat = 1 → addLengthByte s.L b < 256#16 := fun h =>
      hL0 (by omega) ▸ addLengthByte_zero_lt b
    by_cases hlast : s.k.toNat = lengthBytes s.cfg.lw
    · rw [feedLen_last hlast]
      have hc' : (s.c + 1#32).toNat = 2 + lengthBytes s.cfg.lw := by bv_omega
      exact lengthDone_inv hs hcfg ⟨rfl, rfl, rfl, rfl⟩ hg hrx hc' fun h1 => hfirst (by rw [hlast, h1]; rfl)
    · have hk' : (s.k + 1#16).toNat = 2 := by bv_omega
      rw [feedLen_more hk0 hlast]
      exact hs.advance hcfg ⟨rfl, rfl, rfl, rfl⟩ hcfg (fun _ => hg)
        ((phase_readingLength (by exact hst)).2
          ⟨show (s.k + 1#16).toNat ≤ lengthBytes s.cfg.lw by omega,
            show (s.c + 1#32).toNat = 1 + (s.k + 1#16).toNat by bv_omega, hP, hrx, hfirst (by omega),
            fun (h : (s.k + 1#16).toNat ≤ 1) => by omega⟩)

/-- READING_PAYLOAD: the byte's index is inside the buffer, because the accepted count is (42_stream.md R145). -/
theorem feedPay_completes {s : State} (hs : s.Inv) (hst : s.st = .readingPayload) (b : Byte) :
    ∃ t, feedPay b s = .next t ∧ t.Inv := by
  obtain ⟨hkP, hc, hrx, hlen, hw⟩ := (phase_readingPayload hst).1 hs.phase
  have hcfg : s.st ≠ .unconfigured := by simp [hst]
  have hg : s.g = 0#32 := hs.garbage (by simp [hst])
  have hk : s.k < s.params.bufDepth := Nat.lt_of_lt_of_le hkP (hs.count_le_bufDepth hcfg hlen)
  have hN := lengthBytes_le s.cfg.lw
  have hk' : (s.k + 1#16).toNat = s.k.toNat + 1 := by bv_omega
  have hc' : (s.c + 1#32).toNat = 2 + lengthBytes s.cfg.lw + (s.k.toNat + 1) := by bv_omega
  have hw' := hw.write_next b
  refine ⟨_, feedPay_next hk b, ?_⟩
  rw [payDone_eq]
  by_cases hlast : s.k + 1#16 = s.P
  · have hP : s.P.toNat = s.k.toNat + 1 := hlast ▸ hk'
    simp only [if_pos hlast]
    refine (memoryWrite_inv hs hk b).advance hcfg ⟨rfl, rfl, rfl, rfl⟩ (by simp) (fun _ => hg)
      ((phase_readingChecksumEnd rfl).2 ⟨Nat.zero_le _, by simp [hrx], ?_, hlen, ?_⟩)
    · simpa [hP] using hc'
    · simpa only [hP] using hw'
  · simp only [if_neg hlast]
    refine (memoryWrite_inv hs hk b).advance hcfg ⟨rfl, rfl, rfl, rfl⟩ hcfg (fun _ => hg)
      ((phase_readingPayload (by exact hst)).2 ⟨?_, ?_, hrx, hlen, ?_⟩)
    · show s.k + 1#16 < s.P
      bv_omega
    · simpa only [hk'] using hc'
    · simpa only [hk'] using hw'

/-- READING_CHECKSUM_END before the end position (42_stream.md R146). -/
theorem feedCsum_inv {s : State} (hs : s.Inv) (hst : s.st = .readingChecksumEnd)
    (hk : s.k.toNat < checksumWidth s.cfg.alg) (b : Byte) : (feedCsum b s).Inv := by
  obtain ⟨_, hrx, hc, hlen, hw⟩ := (phase_readingChecksumEnd hst).1 hs.phase
  have hcfg : s.st ≠ .unconfigured := by simp [hst]
  have hN := lengthBytes_le s.cfg.lw
  have hW := checksumWidth_le s.cfg.alg
  have hk' : (s.k + 1#16).toNat = s.k.toNat + 1 := by bv_omega
  refine hs.advance hcfg ⟨rfl, rfl, rfl, rfl⟩ hcfg (fun _ => hs.garbage (by simp [hst]))
    ((phase_readingChecksumEnd (by exact hst)).2 ⟨?_, ?_, ?_, hlen, hw⟩)
  · show (s.k + 1#16).toNat ≤ checksumWidth s.cfg.alg
    omega
  · show (s.rx ++ [b]).length = (s.k + 1#16).toNat
    simp [hrx, hk']
  · show (s.c + 1#32).toNat = 2 + lengthBytes s.cfg.lw + s.P.toNat + (s.k + 1#16).toNat
    bv_omega

/-- Whatever the checksum check finds, one event and the return to SEEKING_START follow (42_stream.md R147, R148). -/
theorem checkFrame_eq_toSeek_emit (s : State) (params : List Byte) : ∃ e, checkFrame s params = toSeek (emit s e) := by
  by_cases h : s.rx = computeChecksum s.params s.cfg.alg (checksumSpan s.cfg s.cmd s.L params)
  · exact ⟨_, checkFrame_good h⟩
  · exact ⟨_, checkFrame_bad h⟩

/-- The end position: every parameter the check reads was written, at an index of the buffer (42_stream.md R147). -/
theorem feedEnd_completes {s : State} (hs : s.Inv) (hst : s.st = .readingChecksumEnd) (b : Byte) :
    ∃ t, feedEnd b s = .next t ∧ t.Inv := by
  obtain ⟨_, _, _, hlen, hw⟩ := (phase_readingChecksumEnd hst).1 hs.phase
  have hcfg : s.st ≠ .unconfigured := by simp [hst]
  by_cases hb : b = s.cfg.endByte
  · have hP : s.P.toNat ≤ s.params.bufDepth.toNat := hs.count_le_bufDepth hcfg hlen
    obtain ⟨params, hread⟩ : ∃ params, memReadRange s 0 s.P.toNat = .ok params :=
      memReadRange_exists fun j hj => by
        rw [Nat.zero_add]
        exact ⟨Nat.lt_of_lt_of_le hj hP, hw j hj⟩
    obtain ⟨e, he⟩ := checkFrame_eq_toSeek_emit { s with c := s.c + 1#32 } params
    refine ⟨_, hb ▸ feedEnd_good hread, ?_⟩
    rw [he]
    exact toSeek_emit_inv hs hcfg ⟨rfl, rfl, rfl, rfl⟩ e
  · exact ⟨_, feedEnd_wrongEnd hb, toSeek_emit_inv hs hcfg ⟨rfl, rfl, rfl, rfl⟩ _⟩

/-- A well-formed FEED completes and keeps the invariant, in each resynchronizer state (42_stream.md R140, R141). -/
theorem feedByte_completes {s : State} (hs : s.Inv) (b : Byte) : ∃ t, feedByte b s = .next t ∧ t.Inv := by
  cases hst : s.st with
  | unconfigured => exact ⟨_, feedByte_unconfigured hst b, raiseFault_inv hs .unconf⟩
  | seekingStart => exact ⟨_, feedByte_seekingStart hst b, feedSeek_inv hs hst b⟩
  | readingLength => exact ⟨_, feedByte_readingLength hst b, feedLen_inv hs hst b⟩
  | readingPayload =>
    rw [feedByte_readingPayload hst]
    exact feedPay_completes hs hst b
  | readingChecksumEnd =>
    by_cases hk : s.k.toNat < checksumWidth s.cfg.alg
    · exact ⟨_, feedByte_checksum hst hk b, feedCsum_inv hs hst hk b⟩
    · rw [feedByte_end hst (Nat.not_lt.1 hk)]
      exact feedEnd_completes hs hst b

/-- FEED completes and keeps the invariant, with any reserved bits (43_control.md R176). -/
theorem execFeed_completes {s : State} (hs : s.Inv) (rsv : BitVec 32) (b : Byte) :
    ∃ t, execFeed rsv b s = .next t ∧ t.Inv := by
  by_cases hr : rsv = 0#32
  · subst hr
    rw [execFeed_zero]
    exact feedByte_completes hs b
  · exact ⟨_, execFeed_rsv hr b s, raiseFault_inv hs .op⟩

/-- Settles O33, one lemma per command. -/
theorem everyCommandCompletesUnderInvariant : Obligations.EveryCommandCompletesUnderInvariant := by
  intro i s hs
  cases i with
  | feed rsv b => exact execFeed_completes hs rsv b
  | reset rsv => exact execReset_completes hs rsv
  | configure start stop alg lw lc rsv m => exact execConfigure_completes hs start stop alg lw lc rsv m
  | reservedOp3 arg => exact ⟨_, execReservedOp3_eq arg s, raiseFault_inv hs .op⟩

end Sys2Proof.Machine
end

section
/-! Settles the statements of 10_state.md: the invariant at reset and along every step, the accounting of every byte
fed, `cfg_valid`, the sticky flags, the garbage run, the stops of a command and the STATUS word. -/

namespace Sys2Proof.Machine

/-! ## The invariant along a run (R23 to R32, R37) -/

/-- The invariant does not speak of the command channel. -/
theorem State.Inv.withInput {s : State} (hs : s.Inv) (ws : List Word) : State.Inv { s with input := ws } :=
  ⟨hs.params_ok, hs.buf_wf, hs.buf_bound, hs.valid_iff, hs.budget, hs.garbage, hs.phase⟩

/-- Every command keeps the invariant. -/
theorem exec_inv {i : Instr} {s t : State} (hs : s.Inv) (h : exec i s = .next t) : t.Inv := by
  obtain ⟨u, hu, huInv⟩ := everyCommandCompletesUnderInvariant i s hs
  cases hu.symm.trans h
  exact huInv

/-- Settles O32: with no command a step waits, with one it performs it, and either keeps the invariant. -/
theorem invariantKeptByEveryStep : Obligations.InvariantKeptByEveryStep := by
  intro s t hs h
  cases hin : s.input with
  | nil =>
    have hwait : step s = .next s := by simp only [step, fetch_nil hin]
    cases hwait.symm.trans h
    exact hs
  | cons w rest =>
    rw [step_of_fetch (fetch_cons hin)] at h
    exact exec_inv (hs.withInput rest) h

/-- The OPEN parameters are in range, because `MAX_PAYLOAD` is an integer 0..`BUF_DEPTH` (00_scope.md R8). -/
theorem config_params_ok : Config.params.Ok := by
  have hle : Config.maxPayload.val ≤ Config.bufDepth.toNat := Nat.le_of_lt_succ Config.maxPayload.isLt
  have hlt : Config.maxPayload.val < 2 ^ 16 := Nat.lt_of_le_of_lt hle Config.bufDepth.isLt
  show (BitVec.ofNat 16 Config.maxPayload.val).toNat ≤ Config.bufDepth.toNat
  rwa [BitVec.toNat_ofNat, Nat.mod_eq_of_lt hlt]

/-- Settles O31. -/
theorem invariantHoldsAtReset : Obligations.InvariantHoldsAtReset :=
  { params_ok := config_params_ok
    buf_wf := reset_buf_wf
    buf_bound := fun _ he => absurd he List.not_mem_nil
    valid_iff := by simp [State.reset]
    budget := by simp [State.reset]
    garbage := fun _ => rfl
    phase := (phase_unconfigured rfl).2 ⟨rfl, rfl, rfl, rfl, rfl⟩ }

/-! ## What a FEED does inside an attempt (42_stream.md R143 to R148) -/

/-- The byte joins the attempt, which goes on. -/
structure ByteTaken (s t : State) : Prop where
  st : t.st ≠ .unconfigured ∧ t.st ≠ .seekingStart
  count : t.c = s.c + 1#32
  garbage : t.g = s.g
  unconf : t.fUnconf = s.fUnconf
  events : t.events = s.events

/-- The attempt ends with the event `e`, and nothing of it is kept. -/
structure AttemptEnded (s t : State) (e : Event) : Prop where
  st : t.st = .seekingStart
  idle : t.AttemptIdle
  garbage : t.g = s.g
  unconf : t.fUnconf = s.fUnconf
  events : t.events = s.events ++ [e]

/-- The events that the byte `b` can end an attempt with, and where (42_stream.md R144, R147). -/
inductive EndEvent (s : State) (b : Byte) : Event → Prop where
  | lengthField (r : Reason) (hst : s.st = .readingLength) (hk : s.k.toNat = lengthBytes s.cfg.lw)
      (hr : r = .lengthMismatch ∨ r = .budgetExceeded) : EndEvent s b (.resync (s.c + 1#32) r)
  | endPosition (r : Reason) (hst : s.st = .readingChecksumEnd) (hk : checksumWidth s.cfg.alg ≤ s.k.toNat)
      (hr : r = .unexpectedStartEnd ∨ r = .badChecksum) : EndEvent s b (.resync (s.c + 1#32) r)
  | frame (params : List Byte) (hst : s.st = .readingChecksumEnd) (hk : checksumWidth s.cfg.alg ≤ s.k.toNat)
      (hb : b = s.cfg.endByte) (hlen : params.length = s.P.toNat) : EndEvent s b (.frame ⟨s.cmd, params, s.rx⟩)

theorem attemptEnded_toSeek {s u : State} (e : Event) (hg : u.g = s.g) (hf : u.fUnconf = s.fUnconf)
    (hev : u.events = s.events) : AttemptEnded s (toSeek (emit u e)) e :=
  ⟨rfl, ⟨rfl, rfl, rfl, rfl, rfl⟩, hg, hf, congrArg (· ++ [e]) hev⟩

/-- Everything a FEED of `b` inside an attempt can do. -/
inductive AttemptStep (s : State) (b : Byte) (t : State) : Prop where
  | taken (h : ByteTaken s t)
  | ended (e : Event) (he : EndEvent s b e) (h : AttemptEnded s t e)

theorem feedLen_attemptStep {s : State} (hst : s.st = .readingLength) (b : Byte) : AttemptStep s b (feedLen b s) := by
  have hin : s.st ≠ .unconfigured ∧ s.st ≠ .seekingStart := by simp [hst]
  by_cases hk0 : s.k = 0#16
  · rw [feedLen_code hk0]
    exact .taken ⟨hin, rfl, rfl, rfl, rfl⟩
  by_cases hlast : s.k.toNat = lengthBytes s.cfg.lw
  · rw [feedLen_last hlast]
    cases hp : paramCount s.cfg.lc (addLengthByte s.L b) with
    | none =>
      rw [lengthDone_none (by exact hp)]
      exact .ended _ (.lengthField _ hst hlast (.inl rfl)) (attemptEnded_toSeek _ rfl rfl rfl)
    | some n =>
      by_cases hn : s.cfg.maxPayload < n
      · rw [lengthDone_budget (by exact hp) (by exact hn)]
        exact .ended _ (.lengthField _ hst hlast (.inr rfl)) (attemptEnded_toSeek _ rfl rfl rfl)
      · rw [lengthDone_accept (by exact hp) (by exact BitVec.not_lt.1 hn)]
        refine .taken ⟨?_, rfl, rfl, rfl, rfl⟩
        dsimp only
        split <;> simp
  · rw [feedLen_more hk0 hlast]
    exact .taken ⟨hin, rfl, rfl, rfl, rfl⟩

theorem feedPay_attemptStep {s t : State} (hst : s.st = .readingPayload) {b : Byte} (h : feedPay b s = .next t) :
    AttemptStep s b t := by
  by_cases hk : s.k < s.params.bufDepth
  · rw [feedPay_next hk, payDone_eq] at h
    cases h
    refine .taken ⟨?_, rfl, rfl, rfl, rfl⟩
    dsimp only
    split <;> simp [hst]
  · rw [feedPay_fault (BitVec.not_lt.1 hk)] at h
    cases h

theorem feedEnd_attemptStep {s t : State} (hst : s.st = .readingChecksumEnd)
    (hk : checksumWidth s.cfg.alg ≤ s.k.toNat) {b : Byte} (h : feedEnd b s = .next t) : AttemptStep s b t := by
  by_cases hb : b = s.cfg.endByte
  · subst hb
    cases hr : memReadRange s 0 s.P.toNat with
    | error e =>
      rw [feedEnd_fault hr] at h
      cases h
    | ok params =>
      rw [feedEnd_good hr] at h
      cases h
      by_cases hsum : s.rx = computeChecksum s.params s.cfg.alg (checksumSpan s.cfg s.cmd s.L params)
      · rw [checkFrame_good (by exact hsum)]
        exact .ended _ (.frame params hst hk rfl (memReadRange_ok.1 hr).1) (attemptEnded_toSeek _ rfl rfl rfl)
      · rw [checkFrame_bad (by exact hsum)]
        exact .ended _ (.endPosition _ hst hk (.inr rfl)) (attemptEnded_toSeek _ rfl rfl rfl)
  · rw [feedEnd_wrongEnd hb] at h
    cases h
    exact .ended _ (.endPosition _ hst hk (.inl rfl)) (attemptEnded_toSeek _ rfl rfl rfl)

/-- Everything a well-formed FEED can do. -/
inductive FeedStep (s : State) (b : Byte) (t : State) : Prop where
  | unconfigured (hst : s.st = .unconfigured) (h : t = raiseFault s .unconf)
  | start (hst : s.st = .seekingStart) (hb : b = s.cfg.startByte)
      (h : t = { reportGarbage s with c := 1#32, L := 0#16, P := 0#16, rx := [], k := 0#16, st := .readingLength })
  | skip (hst : s.st = .seekingStart) (hb : b ≠ s.cfg.startByte) (h : t = { s with g := garbageIncr s.g })
  | attempt (hcfg : s.st ≠ .unconfigured) (hin : s.st ≠ .seekingStart) (h : AttemptStep s b t)

theorem feedByte_cases {s t : State} {b : Byte} (h : feedByte b s = .next t) : FeedStep s b t := by
  cases hst : s.st with
  | unconfigured =>
    rw [feedByte_unconfigured hst] at h
    cases h
    exact .unconfigured hst rfl
  | seekingStart =>
    rw [feedByte_seekingStart hst] at h
    cases h
    by_cases hb : b = s.cfg.startByte
    · exact .start hst hb (feedSeek_start hb)
    · exact .skip hst hb (feedSeek_skip hb)
  | readingLength =>
    rw [feedByte_readingLength hst] at h
    cases h
    exact .attempt (by simp [hst]) (by simp [hst]) (feedLen_attemptStep hst b)
  | readingPayload =>
    rw [feedByte_readingPayload hst] at h
    exact .attempt (by simp [hst]) (by simp [hst]) (feedPay_attemptStep hst h)
  | readingChecksumEnd =>
    refine .attempt (by simp [hst]) (by simp [hst]) ?_
    by_cases hk : s.k.toNat < checksumWidth s.cfg.alg
    · rw [feedByte_checksum hst hk] at h
      cases h
      exact .taken ⟨by simp [feedCsum, hst], rfl, rfl, rfl, rfl⟩
    · rw [feedByte_end hst (Nat.not_lt.1 hk)] at h
      exact feedEnd_attemptStep hst (Nat.not_lt.1 hk) h

/-! ## The garbage run (R32) -/

theorem garbageIncr_toNat (g : BitVec 32) : (garbageIncr g).toNat = min (g.toNat + 1) (2 ^ 32 - 1) := by
  unfold garbageIncr
  split <;> bv_omega

/-- Settles O46, by induction on the bytes. -/
theorem garbageRunCountsSaturating : Obligations.GarbageRunCountsSaturating := by
  intro s bs hst hbs
  induction bs generalizing s with
  | nil =>
    have hg : BitVec.ofNat 32 (min (s.g.toNat + ([] : List Byte).length) (2 ^ 32 - 1)) = s.g := by
      apply BitVec.eq_of_toNat_eq
      simp only [BitVec.toNat_ofNat, List.length_nil]
      omega
    rw [feedAll_nil, hg]
  | cons b bs ih =>
    have hskip : feedByte b s = .next { s with g := garbageIncr s.g } := by
      rw [feedByte_seekingStart hst, feedSeek_skip (hbs b List.mem_cons_self)]
    have hg : min ((garbageIncr s.g).toNat + bs.length) (2 ^ 32 - 1) =
        min (s.g.toNat + (b :: bs).length) (2 ^ 32 - 1) := by
      rw [garbageIncr_toNat, List.length_cons]
      omega
    rw [feedAll_cons_next hskip, ← hg]
    exact ih _ hst fun x hx => hbs x (List.mem_cons_of_mem b hx)

/-- One FEED counts at most one byte of garbage. -/
theorem feedByte_garbage_le {s t : State} {b : Byte} (h : feedByte b s = .next t) : t.g.toNat ≤ s.g.toNat + 1 := by
  cases feedByte_cases h with
  | unconfigured _ ht => subst ht; simp
  | start _ _ ht => subst ht; simp
  | skip _ _ ht =>
    subst ht
    exact garbageIncr_toNat s.g ▸ Nat.min_le_left _ _
  | attempt _ _ ht =>
    cases ht with
    | taken ht => rw [ht.garbage]; omega
    | ended _ _ ht => rw [ht.garbage]; omega

/-! ## Every byte is accounted for (R26, R32; 42_stream.md R151) -/

/-- The events between `s` and `t`, with the counters, account for `n` more bytes under the Dialect `d`. -/
def Accounted (d : Dialect) (n : Nat) (s t : State) : Prop :=
  ∃ es, t.events = s.events ++ es ∧
    (es.map (eventBytes d)).sum + t.c.toNat + t.g.toNat = s.c.toNat + s.g.toNat + n

theorem Accounted.refl (d : Dialect) (s : State) : Accounted d 0 s s := ⟨[], by simp, by simp⟩

theorem Accounted.trans {d : Dialect} {m n : Nat} {s t u : State} (hst : Accounted d m s t) (htu : Accounted d n t u) :
    Accounted d (m + n) s u := by
  obtain ⟨es, hes, hsum⟩ := hst
  obtain ⟨fs, hfs, hsum'⟩ := htu
  refine ⟨es ++ fs, by rw [hfs, hes, List.append_assoc], ?_⟩
  rw [List.map_append, List.sum_append]
  omega

/-- The length of an attempt does not overflow its counter (R26). -/
theorem State.Inv.count_succ {s : State} (hs : s.Inv) : (s.c + 1#32).toNat = s.c.toNat + 1 := by
  have hN := lengthBytes_le s.cfg.lw
  have hW := checksumWidth_le s.cfg.alg
  cases hst : s.st with
  | unconfigured =>
    obtain ⟨_, hc, _⟩ := (phase_unconfigured hst).1 hs.phase
    bv_omega
  | seekingStart =>
    obtain ⟨_, hc, _⟩ := (phase_seekingStart hst).1 hs.phase
    bv_omega
  | readingLength =>
    obtain ⟨hk, hc, _⟩ := (phase_readingLength hst).1 hs.phase
    bv_omega
  | readingPayload =>
    obtain ⟨_, hc, _⟩ := (phase_readingPayload hst).1 hs.phase
    bv_omega
  | readingChecksumEnd =>
    obtain ⟨hk, _, hc, _⟩ := (phase_readingChecksumEnd hst).1 hs.phase
    bv_omega

/-- The event that ends an attempt stands for all its bytes, the last one included: a Resync counts them, and a frame
is as long as the attempt (42_stream.md R151, 41_frame_check.md R123). -/
theorem EndEvent.eventBytes_eq {s : State} {b : Byte} {e : Event} (hs : s.Inv) (he : EndEvent s b e) :
    eventBytes s.cfg e = s.c.toNat + 1 := by
  cases he with
  | lengthField => exact hs.count_succ
  | endPosition => exact hs.count_succ
  | frame params hst hk _ hlen =>
    obtain ⟨hk', _, hc, _⟩ := (phase_readingChecksumEnd hst).1 hs.phase
    simp only [eventBytes, frameLength, hlen]
    omega

theorem AttemptStep.accounted {s t : State} {b : Byte} (hs : s.Inv) (h : AttemptStep s b t) :
    Accounted s.cfg 1 s t := by
  cases h with
  | taken h =>
    refine ⟨[], by simp [h.events], ?_⟩
    rw [h.count, h.garbage, hs.count_succ]
    simp
    omega
  | ended e he h =>
    obtain ⟨_, hc, _⟩ := h.idle
    refine ⟨[e], h.events, ?_⟩
    rw [hc, h.garbage]
    simp [he.eventBytes_eq hs]
    omega

/-- One FEED to a configured block accounts for its byte, unless the garbage counter is saturated. -/
theorem feedByte_accounted {s t : State} {b : Byte} (hs : s.Inv) (hv : s.cfgValid = true)
    (hg : s.g.toNat + 1 < 2 ^ 32) (h : feedByte b s = .next t) : Accounted s.cfg 1 s t := by
  cases feedByte_cases h with
  | unconfigured hst _ => exact absurd hst (hs.valid_iff.1 hv)
  | start hst _ ht =>
    obtain ⟨_, hc, _⟩ := (phase_seekingStart hst).1 hs.phase
    subst ht
    by_cases hg0 : s.g = 0#32
    · exact ⟨[], by simp [hg0], by simp [hg0, hc]⟩
    · exact ⟨[.resync s.g .noStart], by simp [hg0], by simp [eventBytes, hc]⟩
  | skip hst _ ht =>
    subst ht
    refine ⟨[], by simp, ?_⟩
    simp only [List.map_nil, List.sum_nil, garbageIncr_toNat]
    omega
  | attempt _ _ ht => exact ht.accounted hs

theorem feedAll_accounted {s t : State} {bs : List Byte} (hs : s.Inv) (hv : s.cfgValid = true)
    (hg : s.g.toNat + bs.length < 2 ^ 32) (h : feedAll bs s = .next t) : Accounted s.cfg bs.length s t := by
  induction bs generalizing s with
  | nil =>
    cases h
    exact Accounted.refl _ _
  | cons b bs ih =>
    obtain ⟨u, hu, huInv⟩ := feedByte_completes hs b
    obtain ⟨_, hcfg, hvalid, _⟩ := feedByte_keeps hu
    have hgu := feedByte_garbage_le hu
    rw [List.length_cons] at hg
    rw [feedAll_cons_next hu] at h
    have hrest : Accounted s.cfg bs.length u t := hcfg ▸ ih huInv (hvalid.trans hv) (by omega) h
    rw [List.length_cons, Nat.add_comm]
    exact (feedByte_accounted hs hv (by omega) hu).trans hrest

/-- Settles O49, by the conservation law along the bytes fed. -/
theorem everyByteIsAccountedFor : Obligations.EveryByteIsAccountedFor :=
  fun _ _ _ hs hv hg h => feedAll_accounted hs hv hg h


/-! ## What each command can do -/

/-- FEED is performed, or refused for its reserved bits (43_control.md R176). -/
theorem exec_feed_cases {s t : State} {rsv : BitVec 32} {b : Byte} (h : exec (.feed rsv b) s = .next t) :
    (rsv = 0#32 ∧ feedByte b s = .next t) ∨ (rsv ≠ 0#32 ∧ t = raiseFault s .op) := by
  by_cases hr : rsv = 0#32
  · subst hr
    exact .inl ⟨rfl, (execFeed_zero b s).symm.trans h⟩
  · cases (execFeed_rsv hr b s).symm.trans h
    exact .inr ⟨hr, rfl⟩

/-- RESET is performed, or refused for its reserved bits (43_control.md R170, R176). -/
theorem exec_reset_cases {s t : State} {rsv : BitVec 40} (h : exec (.reset rsv) s = .next t) :
    (rsv = 0#40 ∧ t = { restart s with st := if s.cfgValid then .seekingStart else .unconfigured }) ∨
      (rsv ≠ 0#40 ∧ t = raiseFault s .op) := by
  by_cases hr : rsv = 0#40
  · subst hr
    cases (execReset_zero s).symm.trans h
    exact .inl ⟨rfl, rfl⟩
  · cases (execReset_rsv hr s).symm.trans h
    exact .inr ⟨hr, rfl⟩

theorem exec_reservedOp3_next {s t : State} {arg : BitVec 40} (h : exec (.reservedOp3 arg) s = .next t) :
    t = raiseFault s .op := by
  cases (execReservedOp3_eq arg s).symm.trans h
  rfl

/-! ## `cfg_valid` (R23) -/

/-- A command that is no CONFIGURE leaves the configuration as it was (43_control.md R177). -/
theorem exec_keeps_config {i : Instr} {s t : State}
    (hi : ∀ start stop alg lw lc rsv m, i ≠ .configure start stop alg lw lc rsv m) (h : exec i s = .next t) :
    t.cfg = s.cfg ∧ t.cfgValid = s.cfgValid := by
  cases i with
  | feed rsv b =>
    obtain ⟨_, h⟩ | ⟨_, rfl⟩ := exec_feed_cases h
    · obtain ⟨_, hcfg, hvalid, _⟩ := feedByte_keeps h
      exact ⟨hcfg, hvalid⟩
    · exact ⟨rfl, rfl⟩
  | reset rsv => obtain ⟨_, rfl⟩ | ⟨_, rfl⟩ := exec_reset_cases h <;> exact ⟨rfl, rfl⟩
  | configure start stop alg lw lc rsv m => exact absurd rfl (hi start stop alg lw lc rsv m)
  | reservedOp3 arg =>
    obtain rfl := exec_reservedOp3_next h
    exact ⟨rfl, rfl⟩

theorem execAll_keeps_cfgValid {js : List Instr} {s t : State}
    (hjs : ∀ j ∈ js, ∀ start stop alg lw lc rsv m, j ≠ .configure start stop alg lw lc rsv m)
    (h : execAll js s = .next t) : t.cfgValid = s.cfgValid := by
  induction js generalizing s with
  | nil =>
    cases h
    rfl
  | cons j js ih =>
    obtain ⟨u, hj, hrest⟩ := execAll_cons h
    obtain ⟨_, hu⟩ := exec_keeps_config (hjs j List.mem_cons_self) hj
    exact (ih (fun x hx => hjs x (List.mem_cons_of_mem j hx)) hrest).trans hu

/-- After a CONFIGURE `cfg_valid` says whether its operands were legal (43_control.md R172 to R174). -/
theorem exec_configure_cfgValid {s t : State} {start stop : Byte} {alg : BitVec 2} {lw lc : BitVec 1} {rsv : BitVec 4}
    {m : BitVec 16} (h : exec (.configure start stop alg lw lc rsv m) s = .next t) :
    t.cfgValid = true ↔ alg ≠ 3#2 ∧ rsv = 0#4 ∧ m ≤ s.params.bufDepth := by
  obtain ⟨d, hd, rfl⟩ | ⟨hd, rfl⟩ := execConfigure_cases h
  · obtain ⟨halg, hrsv, hm, _⟩ := legalDialect_fields hd
    exact iff_of_true rfl ⟨halg, hrsv, hm⟩
  · refine iff_of_false (by simp) ?_
    rintro ⟨halg, hrsv, hm⟩
    obtain hbad | hbad | hbad := legalDialect_eq_none.1 hd
    · exact halg hbad
    · exact hbad hrsv
    · exact BitVec.not_lt.2 hm hbad

/-- Settles O14. -/
theorem cfgValidTellsLastConfigureLegal : Obligations.CfgValidTellsLastConfigureLegal := by
  intro js hjs
  refine ⟨fun t h => execAll_keeps_cfgValid hjs h, ?_⟩
  intro s t start stop alg lw lc rsv m h
  obtain ⟨u, hconf, hrest⟩ := execAll_cons h
  rw [execAll_keeps_cfgValid hjs hrest]
  exact exec_configure_cfgValid hconf

/-! ## The sticky flags (R31) -/

/-- A well-formed FEED records its misuse in UNCONFIGURED and no other (42_stream.md R141). -/
theorem feedByte_fUnconf {s t : State} {b : Byte} (h : feedByte b s = .next t) :
    t.fUnconf = (s.fUnconf || decide (s.st = .unconfigured)) := by
  cases feedByte_cases h with
  | unconfigured hst ht => simp [ht, hst]
  | start hst _ ht => simp [ht, hst]
  | skip hst _ ht => simp [ht, hst]
  | attempt hcfg _ ht =>
    cases ht with
    | taken ht => simp [ht.unconf, hcfg]
    | ended _ _ ht => simp [ht.unconf, hcfg]

/-- Settles O26, one case per command. -/
theorem flagsRecordExactlyTheMisuse : Obligations.FlagsRecordExactlyTheMisuse := by
  intro i s t h
  cases i with
  | feed rsv b =>
    obtain ⟨rfl, h⟩ | ⟨hr, rfl⟩ := exec_feed_cases h
    · obtain ⟨_, _, _, _, hcfg, hop⟩ := feedByte_keeps h
      simp [feedByte_fUnconf h, hcfg, hop]
    · simp [hr]
  | reset rsv =>
    obtain ⟨rfl, rfl⟩ | ⟨hr, rfl⟩ := exec_reset_cases h
    · simp
    · simp [hr]
  | configure start stop alg lw lc rsv m =>
    obtain ⟨d, hd, rfl⟩ | ⟨hd, rfl⟩ := execConfigure_cases h
    · obtain ⟨halg, hrsv, hm, _⟩ := legalDialect_fields hd
      simp [halg, hrsv, BitVec.not_lt.2 hm]
    · have hbad := legalDialect_eq_none.1 hd
      exact ⟨by simp, iff_of_true rfl (.inr ⟨start, stop, alg, lw, lc, rsv, m, rfl, hbad⟩), by simp⟩
  | reservedOp3 arg =>
    obtain rfl := exec_reservedOp3_next h
    simp

/-! ## Where a command stops (logs 3 and 11) -/

/-- A well-formed FEED of `b` needs a byte of the buffer that does not exist or was never written. -/
abbrev State.BufferByteMissing (s : State) (b : Byte) : Prop :=
  (s.st = .readingPayload ∧ s.params.bufDepth ≤ s.k) ∨
    (s.st = .readingChecksumEnd ∧ checksumWidth s.cfg.alg ≤ s.k.toNat ∧ b = s.cfg.endByte ∧
      ∃ j < s.P.toNat, s.params.bufDepth.toNat ≤ j ∨ Memory.read s.buf j = none)

/-- The fault names an index with no byte, for the reason it gives. -/
def Fault.NamesMissing (s : State) : Fault → Prop
  | .bufferIndex j => s.params.bufDepth.toNat ≤ j
  | .bufferUnwritten j => j < s.params.bufDepth.toNat ∧ Memory.read s.buf j = none

/-- The answer `r` in `s`: a fault that names a missing index where `stops` holds, a next state where it does not. -/
inductive StopsExactly (stops : Prop) (s : State) : Result → Prop where
  | next (t : State) (h : ¬ stops) : StopsExactly stops s (.next t)
  | fault (e : Fault) (h : stops) (he : e.NamesMissing s) : StopsExactly stops s (.fault e)

theorem feedPay_stopsExactly {s : State} (hst : s.st = .readingPayload) (b : Byte) :
    StopsExactly (s.BufferByteMissing b) s (feedPay b s) := by
  by_cases hk : s.k < s.params.bufDepth
  · rw [feedPay_next hk]
    exact .next _ (by simp [hst, hk])
  · have hle : s.params.bufDepth ≤ s.k := BitVec.not_lt.1 hk
    rw [feedPay_fault hle]
    exact .fault _ (.inl ⟨hst, hle⟩) hle

theorem feedEnd_stopsExactly {s : State} (hst : s.st = .readingChecksumEnd)
    (hk : checksumWidth s.cfg.alg ≤ s.k.toNat) (b : Byte) :
    StopsExactly (s.BufferByteMissing b) s (feedEnd b s) := by
  by_cases hb : b = s.cfg.endByte
  · subst hb
    cases hr : memReadRange s 0 s.P.toNat with
    | ok params =>
      rw [feedEnd_good hr]
      obtain ⟨hlen, hread⟩ := memReadRange_ok.1 hr
      refine .next _ ?_
      rintro (⟨hst', _⟩ | ⟨_, _, _, j, hj, hmiss⟩)
      · cases hst.symm.trans hst'
      · obtain ⟨hlt, hsome⟩ := memRead_ok.1 (hread j (hlen ▸ hj))
        rw [Nat.zero_add] at hlt hsome
        obtain hmiss | hmiss := hmiss
        · omega
        · cases hmiss.symm.trans hsome
    | error e =>
      rw [feedEnd_fault hr]
      obtain ⟨j, hj, ⟨rfl, hle⟩ | ⟨rfl, hlt, hnone⟩⟩ := memReadRange_error hr
      · rw [Nat.zero_add] at hle ⊢
        exact .fault _ (.inr ⟨hst, hk, rfl, j, hj, .inl hle⟩) hle
      · rw [Nat.zero_add] at hlt hnone ⊢
        exact .fault _ (.inr ⟨hst, hk, rfl, j, hj, .inr hnone⟩) ⟨hlt, hnone⟩
  · rw [feedEnd_wrongEnd hb]
    exact .next _ (by simp [hst, hb])

theorem feedByte_stopsExactly (b : Byte) (s : State) :
    StopsExactly (s.BufferByteMissing b) s (feedByte b s) := by
  cases hst : s.st with
  | unconfigured =>
    rw [feedByte_unconfigured hst]
    exact .next _ (by simp [hst])
  | seekingStart =>
    rw [feedByte_seekingStart hst]
    exact .next _ (by simp [hst])
  | readingLength =>
    rw [feedByte_readingLength hst]
    exact .next _ (by simp [hst])
  | readingPayload =>
    rw [feedByte_readingPayload hst]
    exact feedPay_stopsExactly hst b
  | readingChecksumEnd =>
    by_cases hk : s.k.toNat < checksumWidth s.cfg.alg
    · rw [feedByte_checksum hst hk]
      exact .next _ (by simp [hst, hk])
    · rw [feedByte_end hst (Nat.not_lt.1 hk)]
      exact feedEnd_stopsExactly hst (Nat.not_lt.1 hk) b

/-- Only a well-formed FEED can stop: every other command answers a next state. -/
theorem exec_stopsExactly (i : Instr) (s : State) :
    StopsExactly (∃ b, i = .feed 0#32 b ∧ s.BufferByteMissing b) s (exec i s) := by
  cases i with
  | feed rsv b =>
    by_cases hr : rsv = 0#32
    · subst hr
      have h : StopsExactly (s.BufferByteMissing b) s (exec (.feed 0#32 b) s) := feedByte_stopsExactly b s
      simpa using h
    · have h : exec (.feed rsv b) s = .next (raiseFault s .op) := execFeed_rsv hr b s
      rw [h]
      exact .next _ (by simp [hr])
  | reset rsv =>
    show StopsExactly _ s (execReset rsv s)
    unfold execReset
    split
    · exact .next _ (by simp)
    · exact .next _ (by simp)
  | configure start stop alg lw lc rsv m => exact .next _ (by simp)
  | reservedOp3 arg => exact .next _ (by simp)

theorem exec_completes_iff {i : Instr} {s : State} :
    (∃ t, exec i s = .next t) ↔ ¬ ∃ b, i = .feed 0#32 b ∧ s.BufferByteMissing b := by
  have hstop := exec_stopsExactly i s
  generalize exec i s = r at hstop
  cases hstop with
  | next t hno => exact iff_of_true ⟨t, rfl⟩ hno
  | fault e hyes _ => exact iff_of_false (by simp) (not_not.2 hyes)

theorem exec_fault_namesMissing {i : Instr} {s : State} {e : Fault} (h : exec i s = .fault e) : e.NamesMissing s := by
  have hstop := exec_stopsExactly i s
  rw [h] at hstop
  cases hstop with
  | fault _ _ he => exact he

theorem exec_ne_refused (i : Instr) (s : State) (r : Refusal) : exec i s ≠ .refused r := by
  intro h
  have hstop := exec_stopsExactly i s
  rw [h] at hstop
  cases hstop

/-- Settles O30. -/
theorem commandStopsExactlyOnMissingBufferByte : Obligations.CommandStopsExactlyOnMissingBufferByte :=
  ⟨fun _ _ => exec_completes_iff, fun _ _ _ => ⟨exec_fault_namesMissing, exec_fault_namesMissing⟩, exec_ne_refused⟩

/-! ## The STATUS word (R33) -/

/-- The STATUS word bit by bit: the three bits of the code of `st`, then one bit per field. -/
theorem status_getLsbD (s : State) (i : Nat) :
    (status s).getLsbD i =
      if i < 3 then (rxCode s.st).getLsbD i else if i = 3 then s.cfgValid else if i = 4 then s.fUnconf
      else if i = 5 then s.fCfg else if i = 6 then s.fOp else if i = 7 then decide (0#32 < s.g) else false := by
  unfold status
  simp only [BitVec.getLsbD_append, BitVec.getLsbD_ofBool]
  obtain hi | hi := Nat.lt_or_ge i 8
  · interval_cases i <;> rfl
  · obtain ⟨n, rfl⟩ := Nat.exists_eq_add_of_le' hi
    simp

/-- Settles O35. -/
theorem statusWordFields : Obligations.StatusWordFields := by
  intro s
  refine ⟨?_, status_getLsbD s 3, status_getLsbD s 4, status_getLsbD s 5, status_getLsbD s 6, status_getLsbD s 7, ?_⟩
  · ext i hi
    rw [BitVec.getElem_extractLsb', Nat.zero_add, status_getLsbD, if_pos hi, BitVec.getLsbD_eq_getElem hi]
  · ext i hi
    rw [BitVec.getElem_extractLsb', Nat.add_comm, status_getLsbD]
    simp

end Sys2Proof.Machine
end

section
/-! Settles the statements of 30_encoding.md: decode and encode are inverse to each other, each field is read from the
bits its format gives it, and the assembler's `FEEDS` and `CONFIGURE` lines. -/

namespace Sys2Proof.Machine

/-! ## The op field and the arg of a word (R70, R71) -/

@[simp] theorem opField_opArg (op : BitVec 2) (arg : BitVec 40) : opField (op ++ arg) = op :=
  BitVec.extractLsb'_append_eq_left

/-- A field that lies in `arg` is read from `arg`. -/
theorem extractLsb'_opArg (op : BitVec 2) (arg : BitVec 40) {start len : Nat} (h : start + len ≤ 40) :
    (op ++ arg : Word).extractLsb' start len = arg.extractLsb' start len :=
  BitVec.extractLsb'_append_eq_of_add_le h

/-- A word is its op field followed by its arg. -/
theorem opField_append_arg (w : Word) : (opField w ++ w.extractLsb' 0 40 : Word) = w := by
  have h : (opField w ++ w.extractLsb' 0 40 : Word) = w.extractLsb' 0 42 :=
    BitVec.extractLsb'_append_extractLsb'_eq_extractLsb' rfl
  rw [h, BitVec.extractLsb'_eq_self]

/-- Settles O6: every field but the op lies in the arg. -/
theorem decodeReadsOpAndArgFields : Obligations.DecodeReadsOpAndArgFields := by
  intro op arg
  have harg : (op ++ arg : Word).extractLsb' 0 40 = arg := BitVec.extractLsb'_append_eq_right
  simp only [decode, opField_opArg, extractLsb'_opArg, harg, Nat.reduceAdd, Nat.reduceLeDiff]

/-! ## Decode and encode on an op and an arg (R72 to R74, R78) -/

theorem decode_feed (arg : BitVec 40) :
    decode (0#2 ++ arg) = .feed (arg.extractLsb' 8 32) (arg.extractLsb' 0 8) :=
  decodeReadsOpAndArgFields 0#2 arg

theorem decode_reset (arg : BitVec 40) : decode (1#2 ++ arg) = .reset arg := decodeReadsOpAndArgFields 1#2 arg

/-- The width of `arg` is written as the sum of R74's fields, so that the library's rules for `++` apply to it. -/
theorem decode_configure (arg : BitVec (16 + 4 + 1 + 1 + 2 + 8 + 8)) :
    decode (2#2 ++ arg) =
      .configure (arg.extractLsb' 0 8) (arg.extractLsb' 8 8) (arg.extractLsb' 16 2) (arg.extractLsb' 18 1)
        (arg.extractLsb' 19 1) (arg.extractLsb' 20 4) (arg.extractLsb' 24 16) :=
  decodeReadsOpAndArgFields 2#2 arg

theorem decode_reservedOp3 (arg : BitVec 40) : decode (3#2 ++ arg) = .reservedOp3 arg :=
  decodeReadsOpAndArgFields 3#2 arg

theorem encode_feed (rsv : BitVec 32) (b : Byte) : encode (.feed rsv b) = 0#2 ++ (rsv ++ b) := BitVec.append_assoc

theorem encode_configure (start stop : Byte) (alg : BitVec 2) (lw lc : BitVec 1) (rsv : BitVec 4)
    (maxPayload : BitVec 16) :
    encode (.configure start stop alg lw lc rsv maxPayload)
      = 2#2 ++ (maxPayload ++ rsv ++ lc ++ lw ++ alg ++ stop ++ start) := by
  simp only [encode, BitVec.append_assoc, BitVec.cast_eq]

/-- Settles O4: the fields put side by side in the arg are read back one by one. -/
theorem decodeOfEncodeIsIdentity : Obligations.DecodeOfEncodeIsIdentity := by
  intro i
  cases i with
  | feed rsv b =>
    rw [encode_feed, decode_feed, BitVec.extractLsb'_append_eq_right, BitVec.extractLsb'_append_eq_left]
  | reset rsv => exact decode_reset rsv
  | configure start stop alg lw lc rsv maxPayload =>
    rw [encode_configure, decode_configure]
    simp only [BitVec.extractLsb'_append_eq_of_le, BitVec.extractLsb'_append_eq_right,
      BitVec.extractLsb'_eq_self, Nat.reduceLeDiff, Nat.reduceSub]
  | reservedOp3 arg => exact decode_reservedOp3 arg

/-! ## No bit of the arg is dropped -/

/-- The fields of a FEED cover the arg (R72). -/
theorem feed_fields_append (arg : BitVec 40) : arg.extractLsb' 8 32 ++ arg.extractLsb' 0 8 = arg := by
  rw [BitVec.extractLsb'_append_extractLsb'_eq_extractLsb' (by rfl)]
  exact BitVec.extractLsb'_eq_self

/-- The fields of a CONFIGURE cover the arg (R74). -/
theorem configure_fields_append (arg : BitVec 40) :
    arg.extractLsb' 24 16 ++ arg.extractLsb' 20 4 ++ arg.extractLsb' 19 1 ++ arg.extractLsb' 18 1
      ++ arg.extractLsb' 16 2 ++ arg.extractLsb' 8 8 ++ arg.extractLsb' 0 8 = arg := by
  iterate 6 rw [BitVec.extractLsb'_append_extractLsb'_eq_extractLsb' (by rfl)]
  exact BitVec.extractLsb'_eq_self

/-- Settles O5: every word is an op and an arg, and the fields of the arg put side by side are the arg. -/
theorem encodeOfDecodeIsIdentity : Obligations.EncodeOfDecodeIsIdentity := by
  intro w
  rw [← opField_append_arg w]
  generalize w.extractLsb' 0 40 = arg
  have hop : ∀ op : BitVec 2, op = 0#2 ∨ op = 1#2 ∨ op = 2#2 ∨ op = 3#2 := by decide
  obtain h | h | h | h := hop (opField w) <;> rw [h]
  · rw [decode_feed, encode_feed, feed_fields_append]
  · rw [decode_reset, encode]
  · rw [decode_configure, encode_configure]
    exact congrArg (2#2 ++ ·) (configure_fields_append arg)
  · rw [decode_reservedOp3, encode]

/-- Settles O3. -/
theorem workedEncodingsDecode : Obligations.WorkedEncodingsDecode := by
  unfold Obligations.WorkedEncodingsDecode
  decide

/-! ## Byte and `maxp` operands (R85) -/

/-- A number in range is the value of its bits. -/
theorem ofNat_eq_iff_of_lt {w n : Nat} {x : BitVec w} (h : n < 2 ^ w) : BitVec.ofNat w n = x ↔ n = x.toNat := by
  rw [← BitVec.toNat_inj, BitVec.toNat_ofNat, Nat.mod_eq_of_lt h]

theorem asmByte_eq_ok {n : Nat} {b : Byte} : asmByte n = .ok b ↔ n = b.toNat := by
  unfold asmByte
  split
  next h => rw [Except.ok.injEq, ofNat_eq_iff_of_lt h]
  next h => exact iff_of_false nofun (fun hn => h (hn ▸ b.isLt))

theorem asmMaxp_eq_ok {n : Nat} {m : BitVec 16} : asmMaxp n = .ok m ↔ n = m.toNat := by
  unfold asmMaxp
  split
  next h => rw [Except.ok.injEq, ofNat_eq_iff_of_lt h]
  next h => exact iff_of_false nofun (fun hn => h (hn ▸ m.isLt))

theorem asmByte_of_gt {n : Nat} (h : 255 < n) : asmByte n = .error .byteRange := if_neg (by omega)

theorem asmByte_of_le {n : Nat} (h : ¬ 255 < n) : asmByte n = .ok (BitVec.ofNat 8 n) := if_pos (by omega)

/-! ## The `FEEDS` line (R86) -/

theorem asmBytes_toNat (bs : List Byte) : asmBytes (bs.map BitVec.toNat) = .ok bs := by
  induction bs with
  | nil => rfl
  | cons b rest ih => simp only [List.map_cons, asmBytes, asmByte_eq_ok.2 rfl, ih]

theorem asmBytes_of_gt {ns : List Nat} (h : ∃ n ∈ ns, 255 < n) : asmBytes ns = .error .byteRange := by
  induction ns with
  | nil => simp at h
  | cons n rest ih =>
    by_cases hn : 255 < n
    · simp only [asmBytes, asmByte_of_gt hn]
    · have hrest : ∃ m ∈ rest, 255 < m := by simpa [hn] using h
      simp only [asmBytes, asmByte_of_le hn, ih hrest]

/-- Settles O52, by induction on the operands. -/
theorem feedsPseudoWritesOneFeedPerByte : Obligations.FeedsPseudoWritesOneFeedPerByte := by
  constructor
  · intro p bs
    simp only [assembleLine, asmBytes_toNat, Except.map, feedCommands, List.map_map]
    rfl
  · intro p ns h
    simp only [assembleLine, asmBytes_of_gt h, Except.map]

/-! ## The operands a Dialect is written with (R74, R85) -/

/-- The six operands of the CONFIGURE line of a Dialect, in the order of R85. -/
def dialectArgs (d : Dialect) : List ConfigArg :=
  [.start d.startByte.toNat, .stop d.endByte.toNat, .alg d.alg, .lw d.lw, .lc d.lc, .maxp d.maxPayload.toNat]

theorem map_argKey_dialectArgs (d : Dialect) : (dialectArgs d).map argKey = [0, 1, 2, 3, 4, 5] := rfl

theorem nodup_argKeys {d : Dialect} {args : List ConfigArg} (h : args.Perm (dialectArgs d)) :
    (args.map argKey).Nodup :=
  (h.map argKey).nodup_iff.2 (by rw [map_argKey_dialectArgs]; decide)

/-- Operands are a Dialect's six in some order exactly where they have the six keys, each once, and each is one of
the Dialect's. -/
theorem perm_dialectArgs_iff {d : Dialect} {args : List ConfigArg} :
    args.Perm (dialectArgs d) ↔ (args.map argKey).Perm [0, 1, 2, 3, 4, 5] ∧ ∀ a ∈ args, a ∈ dialectArgs d := by
  constructor
  · exact fun h => ⟨h.map argKey, fun a => h.mem_iff.1⟩
  · rintro ⟨hkeys, hmem⟩
    have hnodup : args.Nodup := .of_map argKey (hkeys.nodup_iff.2 (by decide))
    have hlen : args.length = 6 := by simpa using hkeys.length_eq
    exact (List.subperm_of_subset hnodup hmem).perm_of_length_le hlen.ge

theorem dialectArgs_perm_inj {d e : Dialect} (h : (dialectArgs d).Perm (dialectArgs e)) : d = e := by
  have hmem : ∀ a ∈ dialectArgs d, a ∈ dialectArgs e := fun a => h.mem_iff.1
  obtain ⟨⟩ := d
  obtain ⟨⟩ := e
  simpa [dialectArgs, BitVec.toNat_inj] using hmem

/-! ## The keys read so far (R85; log 14) -/

/-- One place per key, in the order of `argKey`: the operand given under it, if any. -/
def ConfigKeys.slots (ks : ConfigKeys) : List (Option ConfigArg) :=
  [ks.start.map (.start ·.toNat), ks.stop.map (.stop ·.toNat), ks.alg.map .alg, ks.lw.map .lw, ks.lc.map .lc,
    ks.maxp.map (.maxp ·.toNat)]

/-- The operands given so far. -/
def ConfigKeys.args (ks : ConfigKeys) : List ConfigArg := ks.slots.reduceOption

theorem args_empty : ({} : ConfigKeys).args = [] := rfl

/-- The keys of a full CONFIGURE line. -/
def dialectKeys (d : Dialect) : ConfigKeys :=
  ⟨some d.startByte, some d.endByte, some d.alg, some d.lw, some d.lc, some d.maxPayload⟩

theorem args_dialectKeys (d : Dialect) : (dialectKeys d).args = dialectArgs d := rfl

theorem fullDialect_eq_ok {ks : ConfigKeys} {d : Dialect} : fullDialect ks = .ok d ↔ ks = dialectKeys d := by
  constructor
  · intro h
    unfold fullDialect at h
    split at h
    · cases h
      rfl
    · cases h
  · rintro rfl
    rfl

/-- Where six operands were given, every key has its value. -/
theorem eq_dialectKeys_of_length {ks : ConfigKeys} (h : ks.args.length = 6) : ∃ d, ks = dialectKeys d := by
  have hall : ∀ o ∈ ks.slots, o.isSome := List.reduceOption_length_eq_iff.1 h
  obtain ⟨start, stop, alg, lw, lc, maxp⟩ := ks
  simp only [ConfigKeys.slots, List.forall_mem_cons, Option.isSome_map] at hall
  simp only [Option.isSome_iff_exists] at hall
  obtain ⟨⟨b, rfl⟩, ⟨e, rfl⟩, ⟨a, rfl⟩, ⟨w, rfl⟩, ⟨c, rfl⟩, ⟨m, rfl⟩, -⟩ := hall
  exact ⟨⟨b, e, a, w, c, m⟩, rfl⟩

/-- The keys are complete for a Dialect exactly where the operands given are its six. -/
theorem fullDialect_iff_args_perm {ks : ConfigKeys} {d : Dialect} :
    fullDialect ks = .ok d ↔ ks.args.Perm (dialectArgs d) := by
  rw [fullDialect_eq_ok]
  constructor
  · rintro rfl
    rw [args_dialectKeys]
  · intro h
    obtain ⟨e, rfl⟩ := eq_dialectKeys_of_length h.length_eq
    rw [args_dialectKeys] at h
    rw [dialectArgs_perm_inj h]

/-! ## One more operand -/

theorem unlessGiven_eq_ok {α β : Type} {o : Option α} {r : Except AsmError β} {x : β} :
    (if o.isSome then .error .duplicateKey else r) = .ok x ↔ o = none ∧ r = .ok x := by
  cases o <;> simp

theorem except_map_eq_ok {α β : Type} {f : α → β} {r : Except AsmError α} {y : β} :
    r.map f = .ok y ↔ ∃ x, r = .ok x ∧ f x = y := by
  cases r <;> simp [Except.map]

/-- What one more operand can do: its key was free, and now holds it. -/
theorem addKey_slots {ks ks1 : ConfigKeys} {a : ConfigArg} (h : addKey ks a = .ok ks1) :
    ks.slots[argKey a]? = some none ∧ ks1.slots = ks.slots.set (argKey a) (some a) := by
  cases a
  all_goals
    simp only [addKey, unlessGiven_eq_ok, except_map_eq_ok, asmByte_eq_ok, asmMaxp_eq_ok, Except.ok.injEq] at h
    obtain ⟨hfree, h⟩ := h
  case start | stop | maxp =>
    obtain ⟨x, rfl, rfl⟩ := h
    simp [ConfigKeys.slots, argKey, hfree]
  all_goals
    subst h
    simp [ConfigKeys.slots, argKey, hfree]

/-- Filling an empty place gives one more operand. -/
theorem reduceOption_set_perm {α : Type} {l : List (Option α)} {i : Nat} (h : l[i]? = some none) (a : α) :
    (l.set i (some a)).reduceOption.Perm (a :: l.reduceOption) := by
  induction l generalizing i with
  | nil => simp at h
  | cons o rest ih =>
    cases i with
    | zero =>
      obtain rfl : o = none := by simpa using h
      rfl
    | succ i =>
      have hperm := ih (i := i) (by simpa using h)
      cases o with
      | none => exact hperm
      | some b => exact (hperm.cons b).trans (.swap a b _)

theorem addKey_args_perm {ks ks1 : ConfigKeys} {a : ConfigArg} (h : addKey ks a = .ok ks1) :
    ks1.args.Perm (a :: ks.args) := by
  obtain ⟨hfree, hset⟩ := addKey_slots h
  rw [ConfigKeys.args, hset]
  exact reduceOption_set_perm hfree a

theorem argKey_lt (a : ConfigArg) : argKey a < 6 := by cases a <;> simp [argKey]

/-- An operand is held under its own key. -/
theorem argKey_of_slots_getElem? {ks : ConfigKeys} {k : Nat} {a : ConfigArg} (h : ks.slots[k]? = some (some a)) :
    argKey a = k := by
  have hk : k < 6 := (List.getElem?_eq_some_iff.1 h).1
  interval_cases k
  all_goals
    obtain ⟨x, -, rfl⟩ := Option.map_eq_some_iff.1 (Option.some.inj h)
    rfl

/-- A key that no operand so far has is free. -/
theorem slots_free {ks : ConfigKeys} {a : ConfigArg} (h : argKey a ∉ ks.args.map argKey) :
    ks.slots[argKey a]? = some none := by
  cases ho : ks.slots[argKey a]? with
  | none => exact absurd (List.getElem?_eq_none_iff.1 ho) (Nat.not_le.2 (argKey_lt a))
  | some o =>
    cases o with
    | none => rfl
    | some x =>
      have hx : x ∈ ks.args := List.reduceOption_mem_iff.2 (List.mem_of_getElem? ho)
      exact absurd (argKey_of_slots_getElem? ho ▸ List.mem_map_of_mem hx) h

/-- An operand of a Dialect is taken where its key is free. -/
theorem addKey_of_mem {d : Dialect} {ks : ConfigKeys} {a : ConfigArg} (ha : a ∈ dialectArgs d)
    (hfree : ks.slots[argKey a]? = some none) : ∃ ks1, addKey ks a = .ok ks1 := by
  simp only [dialectArgs, List.mem_cons, List.not_mem_nil, or_false] at ha
  rcases ha with rfl | rfl | rfl | rfl | rfl | rfl
  all_goals
    have hnone := Option.map_eq_none_iff.1 (Option.some.inj hfree)
    simp [addKey, except_map_eq_ok, asmByte_eq_ok, asmMaxp_eq_ok, hnone]

/-! ## The CONFIGURE line -/

/-- A line's operands, after those read before, complete a Dialect exactly where all of them together are its six. -/
theorem collectKeys_iff_perm {args : List ConfigArg} {ks : ConfigKeys} {d : Dialect} :
    (collectKeys ks args >>= fullDialect) = .ok d ↔ (args ++ ks.args).Perm (dialectArgs d) := by
  induction args generalizing ks with
  | nil => exact fullDialect_iff_args_perm
  | cons a rest ih =>
    cases hadd : addKey ks a with
    | ok ks1 =>
      have hperm : (rest ++ ks1.args).Perm (a :: rest ++ ks.args) :=
        ((addKey_args_perm hadd).append_left rest).trans List.perm_middle
      simp only [collectKeys, hadd]
      rw [ih, hperm.congr_left]
    | error e =>
      simp only [collectKeys, hadd]
      refine iff_of_false nofun fun hperm => ?_
      have hfresh : argKey a ∉ ks.args.map argKey := by
        have hnodup := nodup_argKeys hperm
        rw [List.cons_append, List.map_cons, List.nodup_cons, List.map_append, List.mem_append] at hnodup
        exact fun h => hnodup.1 (.inr h)
      obtain ⟨ks1, hok⟩ := addKey_of_mem (hperm.mem_iff.1 List.mem_cons_self) (slots_free hfresh)
      cases hadd.symm.trans hok

theorem assembleLine_configure_eq_ok {p : Params} {args : List ConfigArg} {ws : List Word} :
    assembleLine p (.configure args) = .ok ws ↔
      ∃ d, args.Perm (dialectArgs d) ∧ ws = [encode (configureCommand d)] := by
  simp only [assembleLine, except_map_eq_ok, collectKeys_iff_perm, args_empty, List.append_nil, eq_comm (a := ws)]

theorem mem_dialectArgs {d : Dialect} {a : ConfigArg} :
    a ∈ dialectArgs d ↔
      match a with
      | .start n => n = d.startByte.toNat
      | .stop n => n = d.endByte.toNat
      | .alg x => x = d.alg
      | .lw w => w = d.lw
      | .lc c => c = d.lc
      | .maxp n => n = d.maxPayload.toNat := by
  cases a <;> simp [dialectArgs]

/-- Settles O53: a line assembles exactly where its operands are the six of a Dialect, in any order. -/
theorem configureLineNeedsEachKeyOnce : Obligations.ConfigureLineNeedsEachKeyOnce := by
  intro p args ws
  rw [assembleLine_configure_eq_ok]
  simp only [perm_dialectArgs_iff]
  constructor
  · rintro ⟨d, ⟨hkeys, hmem⟩, hws⟩
    exact ⟨hkeys, d, hws, fun a ha => mem_dialectArgs.1 (hmem a ha)⟩
  · rintro ⟨hkeys, d, hws, hmem⟩
    exact ⟨d, ⟨hkeys, fun a ha => mem_dialectArgs.2 (hmem a ha)⟩, hws⟩

end Sys2Proof.Machine
end

section
/-! Settles the statements of 40_checksum.md: the checksum's width, the XOR checksum under a permutation and under equal
changes, and the detection of one changed byte. -/

namespace Sys2Proof.Machine

open Function (Injective)

/-! ## The width (R101) -/

@[simp] theorem length_computeChecksum (p : Params) (a : Alg) (span : List Byte) :
    (computeChecksum p a span).length = checksumWidth a := by
  cases a <;> rfl

/-- Settles O37: the three widths are those of `checksumWidth`. -/
theorem checksumHasItsWidth : Obligations.ChecksumHasItsWidth := fun p span =>
  ⟨length_computeChecksum p .none span, length_computeChecksum p .xor span, length_computeChecksum p .crc16 span,
    fun a => length_computeChecksum p a span⟩

/-! ## The XOR checksum (R103, R108 (c)) -/

/-- Settles O38, by induction on the permutation. -/
theorem xorChecksumIgnoresOrder : Obligations.XorChecksumIgnoresOrder := by
  intro s1 s2 h
  induction h with
  | nil => rfl
  | cons b _ ih => rw [xor8_cons, xor8_cons, ih]
  | swap b c s => simp only [xor8_cons, ← BitVec.xor_assoc, BitVec.xor_comm b c]
  | trans _ _ ih1 ih2 => exact ih1.trans ih2

/-- A mask XORed into one byte of the span is XORed into the checksum. -/
theorem xor8_modify {span : List Byte} {i : Nat} (m : Byte) (h : i < span.length) :
    xor8 (span.modify i (· ^^^ m)) = xor8 span ^^^ m := by
  induction span generalizing i with
  | nil => cases h
  | cons b bs ih =>
    cases i with
    | zero => simp only [List.modify_zero_cons, xor8_cons, BitVec.xor_assoc, BitVec.xor_comm m]
    | succ i => rw [List.modify_succ_cons, xor8_cons, xor8_cons, ih (Nat.lt_of_succ_lt_succ h), BitVec.xor_assoc]

/-- Settles O40: the mask is XORed into the checksum twice. -/
theorem equalXorChangesOfTwoBytesCancel : Obligations.EqualXorChangesOfTwoBytesCancel := by
  intro p span i j m hi hj _
  have hj' : j < (span.modify i (· ^^^ m)).length := by rwa [List.length_modify]
  have hcancel : xor8 ((span.modify i (· ^^^ m)).modify j (· ^^^ m)) = xor8 span := by
    rw [xor8_modify m hj', xor8_modify m hi, BitVec.xor_assoc, BitVec.xor_self, BitVec.xor_zero]
  exact congrArg (fun v => [v]) hcancel

/-! ## Folds that lose nothing

Both checksums fold a step over the span. Where the step is injective in the register and in the byte, a changed byte
changes the register, and the rest of the span keeps the two registers apart. -/

theorem foldl_injective {α β : Type} {f : β → α → β} (hreg : ∀ x, Injective (f · x)) (l : List α) :
    Injective (l.foldl f ·) := by
  induction l with
  | nil => exact fun _ _ h => h
  | cons x l ih => exact fun _ _ h => hreg x (ih h)

theorem foldl_set_ne {α β : Type} {f : β → α → β} (hreg : ∀ x, Injective (f · x)) (hbyte : ∀ r, Injective (f r))
    {l : List α} {i : Nat} {x : α} (hi : i < l.length) (hx : l[i]? ≠ some x) (r : β) :
    (l.set i x).foldl f r ≠ l.foldl f r := by
  induction l generalizing i r with
  | nil => cases hi
  | cons y l ih =>
    cases i with
    | zero => exact fun h => hx (congrArg some (hbyte r (foldl_injective hreg l h)).symm)
    | succ i => exact ih (Nat.lt_of_succ_lt_succ hi) hx (f r y)

theorem xor8_set_ne {span : List Byte} {i : Nat} {x : Byte} (hi : i < span.length) (hx : span[i]? ≠ some x) :
    xor8 (span.set i x) ≠ xor8 span :=
  foldl_set_ne (fun m _ _ => (BitVec.xor_left_inj m).1) (fun r _ _ => (BitVec.xor_right_inj r).1) hi hx 0

/-! ## The CRC16 register (R104, R108 (e))

With constant term 1 the bit shifted out of the register is the new bit 0, so a shift can be undone. -/

theorem getLsbD_zero_crcShift {poly : BitVec 16} (hpoly : poly.getLsbD 0 = true) (r : BitVec 16) :
    (crcShift poly r).getLsbD 0 = r.msb := by
  cases hr : r.msb <;> simp [crcShift, hr, hpoly]

theorem crcShift_injective {poly : BitVec 16} (hpoly : poly.getLsbD 0 = true) : Injective (crcShift poly) := by
  intro x y h
  have hmsb : x.msb = y.msb := by rw [← getLsbD_zero_crcShift hpoly x, h, getLsbD_zero_crcShift hpoly]
  have hrest : x <<< 1 = y <<< 1 := by
    simp only [crcShift, hmsb] at h
    split at h
    · exact (BitVec.xor_left_inj poly).1 h
    · exact h
  rw [BitVec.msb_eq_decide, BitVec.msb_eq_decide, decide_eq_decide] at hmsb
  bv_omega

theorem reverse_injective {w : Nat} : Injective (BitVec.reverse (w := w)) :=
  Function.LeftInverse.injective fun _ => BitVec.reverse_reverse_eq

theorem crcByte_injective_register {p : Params} (hpoly : p.crc16Poly.getLsbD 0 = true) (d : Byte) :
    Injective (crcByte p · d) :=
  fun _ _ h => (BitVec.xor_left_inj _).1 ((crcShift_injective hpoly).iterate 8 h)

theorem crcByte_injective_byte {p : Params} (hpoly : p.crc16Poly.getLsbD 0 = true) (r : BitVec 16) :
    Injective (crcByte p r) := by
  intro d e h
  have hhigh := (BitVec.xor_right_inj _).1 ((crcShift_injective hpoly).iterate 8 h)
  have hbyte : (if p.crc16RefIn then d.reverse else d) = if p.crc16RefIn then e.reverse else e := by bv_omega
  split at hbyte
  · exact reverse_injective hbyte
  · exact hbyte

theorem crc16_set_ne {p : Params} (hpoly : p.crc16Poly.getLsbD 0 = true) {span : List Byte} {i : Nat} {x : Byte}
    (hi : i < span.length) (hx : span[i]? ≠ some x) : crc16 p (span.set i x) ≠ crc16 p span := by
  intro h
  refine foldl_set_ne (crcByte_injective_register hpoly) (crcByte_injective_byte hpoly) hi hx p.crc16Init ?_
  have hout := (BitVec.xor_left_inj p.crc16XorOut).1 h
  split at hout
  · exact reverse_injective hout
  · exact hout

/-- The two bytes are those of a length field, which reads back. -/
theorem bytesBE_injective : Injective bytesBE :=
  Function.LeftInverse.injective fun v => lengthValue_lenBytes .two v nofun

/-- Settles O39: the checksum is an injective image of `xor8` or `crc16`, and neither forgets a changed byte. -/
theorem oneByteChangeChangesChecksum : Obligations.OneByteChangeChangesChecksum := by
  rintro p a span i x (rfl | ⟨rfl, hpoly⟩) hi hx h
  · exact xor8_set_ne hi hx (List.head_eq_of_cons_eq h)
  · exact crc16_set_ne hpoly hi hx (bytesBE_injective h)

end Sys2Proof.Machine
end

section
/-! Settles the statements of 41_frame_check.md: the frame check accepts exactly the slices the reference encoder writes
and does not apply the byte budget, and when the encoder fails. -/

namespace Sys2Proof.Machine

/-! ## The bounds of the reference encoder (R129) -/

theorem frameEncode_tooLong {p : Params} {d : Dialect} {cmd : Byte} {params : List Byte} :
    frameEncode p d cmd params = .error .parametersTooLong ↔
      2 ^ (8 * lengthBytes d.lw) - 1 < declaredLength d.lc params.length := by
  simp only [frameEncode]
  split <;> simp [*]

/-- Settles O41: the largest length of `N` bytes, for each width and each policy. -/
theorem encodeFailsExactlyWhenTooLong : Obligations.EncodeFailsExactlyWhenTooLong := by
  intro p d cmd params
  rw [frameEncode_tooLong]
  cases d.lw <;> cases d.lc <;> simp only [lengthBytes, declaredLength] <;> omega

/-! ## The layout of a frame (30_encoding.md R80) -/

/-- The bytes of a frame with these fields between the delimiters of `d` (30_encoding.md R80). -/
def frameBytes (d : Dialect) (cmd : Byte) (len params csum : List Byte) : List Byte :=
  d.startByte :: cmd :: (len ++ (params ++ (csum ++ [d.endByte])))

/-- The fields have the sizes `d` and the length field give them (R121 to R123). -/
structure FieldsFit (d : Dialect) (len params csum : List Byte) : Prop where
  len_width : len.length = lengthBytes d.lw
  count : ∃ n, paramCount d.lc (lengthValue len) = some n ∧ n.toNat = params.length
  csum_width : csum.length = checksumWidth d.alg

/-- The reference encoder writes a frame with the declared length and the computed checksum (R128). -/
theorem frameEncode_eq_ok {p : Params} {d : Dialect} {cmd : Byte} {params raw : List Byte} :
    frameEncode p d cmd params = .ok raw ↔
      declaredLength d.lc params.length < 2 ^ (8 * lengthBytes d.lw) ∧
      raw = frameBytes d cmd (lenBytes d.lw (BitVec.ofNat 16 (declaredLength d.lc params.length))) params
        (computeChecksum p d.alg
          (checksumSpan d cmd (BitVec.ofNat 16 (declaredLength d.lc params.length)) params)) := by
  have hpow : 0 < 2 ^ (8 * lengthBytes d.lw) := Nat.two_pow_pos _
  simp only [frameEncode]
  split
  · simp only [reduceCtorEq, false_iff, not_and]
    omega
  · rw [and_iff_right (by omega), Except.ok.injEq, eq_comm, frameBytes]
    simp [checksumSpan]

/-! ## The length field a frame declares -/

theorem pow_lengthBytes_le (w : LengthWidth) : 2 ^ (8 * lengthBytes w) ≤ 65536 := by cases w <;> decide

theorem le_declaredLength (c : LengthPolicy) (n : Nat) : n ≤ declaredLength c n := by
  cases c
  · exact Nat.le_refl n
  · exact Nat.le_succ n

/-- A 16-bit length fits a two-byte field, and a one-byte field below 256. -/
theorem toNat_lt_pow_lengthBytes {w : LengthWidth} {l : BitVec 16} :
    l.toNat < 2 ^ (8 * lengthBytes w) ↔ (w = .one → l < 256#16) := by
  cases w with
  | one => exact ⟨fun h _ => h, fun h => h rfl⟩
  | two => exact iff_of_true l.isLt nofun

/-- Fields fit exactly where the length field is the declared length, written without loss. -/
theorem fieldsFit_iff {d : Dialect} {len params csum : List Byte} :
    FieldsFit d len params csum ↔
      declaredLength d.lc params.length < 2 ^ (8 * lengthBytes d.lw) ∧
      len = lenBytes d.lw (BitVec.ofNat 16 (declaredLength d.lc params.length)) ∧
      csum.length = checksumWidth d.alg := by
  constructor
  · rintro ⟨hlen, ⟨n, hcount, hn⟩, hcsum⟩
    obtain ⟨hread, hnarrow⟩ := lenBytes_lengthValue d.lw len hlen
    have hdecl : declaredLength d.lc params.length = (lengthValue len).toNat := hn ▸ declaredLength_paramCount hcount
    rw [hdecl, BitVec.ofNat_toNat, BitVec.setWidth_eq, hread]
    exact ⟨toNat_lt_pow_lengthBytes.2 hnarrow, rfl, hcsum⟩
  · rintro ⟨hfits, rfl, hcsum⟩
    have h16 := Nat.lt_of_lt_of_le hfits (pow_lengthBytes_le d.lw)
    have hle := le_declaredLength d.lc params.length
    have hnarrow : d.lw = .one → BitVec.ofNat 16 (declaredLength d.lc params.length) < 256#16 :=
      toNat_lt_pow_lengthBytes.1 (by rwa [BitVec.toNat_ofNat, Nat.mod_eq_of_lt h16])
    refine ⟨lenBytes_length _ _, ⟨BitVec.ofNat 16 params.length, ?_, ?_⟩, hcsum⟩
    · rw [lengthValue_lenBytes _ _ hnarrow, paramCount_declaredLength _ _ h16]
    · rw [BitVec.toNat_ofNat, Nat.mod_eq_of_lt (by omega)]

/-! ## Reading the layout -/

/-- The bytes between two positions are those that stand there. -/
theorem slice_of_append {raw pre mid post : List Byte} {i j : Nat} (h : raw = pre ++ (mid ++ post))
    (hi : pre.length = i) (hj : i + mid.length = j) : slice raw i j = mid := by
  subst h hi hj
  simp [slice]

@[simp] theorem getD_zero_frameBytes (d : Dialect) (cmd : Byte) (len params csum : List Byte) :
    (frameBytes d cmd len params csum).getD 0 0 = d.startByte := rfl

@[simp] theorem getD_one_frameBytes (d : Dialect) (cmd : Byte) (len params csum : List Byte) :
    (frameBytes d cmd len params csum).getD 1 0 = cmd := rfl

section Positions

variable {d : Dialect} {len params csum : List Byte} (cmd : Byte)

theorem length_frameBytes (hlen : len.length = lengthBytes d.lw) (hcsum : csum.length = checksumWidth d.alg) :
    (frameBytes d cmd len params csum).length = frameLength d params.length := by
  simp only [frameBytes, frameLength, List.length_cons, List.length_append, List.length_nil]
  omega

theorem slice_frameBytes_length (hlen : len.length = lengthBytes d.lw) :
    slice (frameBytes d cmd len params csum) 2 (2 + lengthBytes d.lw) = len :=
  slice_of_append (pre := [d.startByte, cmd]) rfl rfl (congrArg _ hlen)

theorem slice_frameBytes_params (hlen : len.length = lengthBytes d.lw) :
    slice (frameBytes d cmd len params csum) (2 + lengthBytes d.lw) (2 + lengthBytes d.lw + params.length) = params :=
  slice_of_append (pre := d.startByte :: cmd :: len) rfl (by simp only [List.length_cons]; omega) rfl

theorem slice_frameBytes_csum (hlen : len.length = lengthBytes d.lw) (hcsum : csum.length = checksumWidth d.alg) :
    slice (frameBytes d cmd len params csum) (2 + lengthBytes d.lw + params.length)
      (2 + lengthBytes d.lw + params.length + checksumWidth d.alg) = csum :=
  slice_of_append (pre := d.startByte :: cmd :: (len ++ params)) (post := [d.endByte]) (by simp [frameBytes])
    (by simp only [List.length_cons, List.length_append]; omega) (congrArg _ hcsum)

/-- The checksum span of 40_checksum.md R106. -/
theorem slice_frameBytes_span (hlen : len.length = lengthBytes d.lw) :
    slice (frameBytes d cmd len params csum) 1 (2 + lengthBytes d.lw + params.length) = cmd :: (len ++ params) :=
  slice_of_append (pre := [d.startByte]) (post := csum ++ [d.endByte]) (by simp [frameBytes]) rfl
    (by simp only [List.length_cons, List.length_append]; omega)

theorem getLast?_frameBytes : (frameBytes d cmd len params csum).getLast? = some d.endByte :=
  List.getLast?_eq_some_iff.2 ⟨d.startByte :: cmd :: (len ++ (params ++ csum)), by simp [frameBytes]⟩

theorem getD_last_frameBytes (hlen : len.length = lengthBytes d.lw) (hcsum : csum.length = checksumWidth d.alg) :
    (frameBytes d cmd len params csum).getD (frameLength d params.length - 1) 0 = d.endByte := by
  rw [← length_frameBytes cmd hlen hcsum, List.getD_eq_getElem?_getD, ← List.getLast?_eq_getElem?,
    getLast?_frameBytes, Option.getD_some]

end Positions

/-- A slice of the length of a frame, with the delimiters of `d` at its ends, has the layout of a frame. -/
theorem exists_frameBytes {d : Dialect} {raw : List Byte} {n : Nat} (hlen : raw.length = frameLength d n)
    (hstart : raw.getD 0 0 = d.startByte) (hend : raw.getD (frameLength d n - 1) 0 = d.endByte) :
    ∃ cmd len params csum, raw = frameBytes d cmd len params csum ∧ len.length = lengthBytes d.lw ∧
      params.length = n ∧ csum.length = checksumWidth d.alg := by
  have hT : frameLength d n = 3 + lengthBytes d.lw + n + checksumWidth d.alg := rfl
  obtain rfl | ⟨body, last, rfl⟩ := List.eq_nil_or_concat' raw
  · rw [List.length_nil] at hlen
    omega
  rw [List.length_append, List.length_singleton] at hlen
  have hbody : frameLength d n - 1 = body.length := by omega
  obtain rfl : last = d.endByte := by simpa [hbody] using hend
  match body with
  | [] | [_] =>
    simp only [List.length_nil, List.length_cons] at hlen
    omega
  | start :: cmd :: rest =>
    obtain rfl : start = d.startByte := hstart
    simp only [List.length_cons] at hlen
    refine ⟨cmd, rest.take (lengthBytes d.lw), (rest.drop (lengthBytes d.lw)).take n,
      (rest.drop (lengthBytes d.lw)).drop n, ?_, ?_, ?_, ?_⟩
    · simp only [frameBytes, List.cons_append, ← List.append_assoc, List.take_append_drop]
    · rw [List.length_take]
      omega
    · rw [List.length_take, List.length_drop]
      omega
    · rw [List.length_drop, List.length_drop]
      omega

/-! ## The frame check (R124) -/

theorem guard_eq_ok {ε α : Type} {c : Prop} [Decidable c] {e : ε} {r : Except ε α} {x : α} :
    (if c then .error e else r) = .ok x ↔ ¬ c ∧ r = .ok x := by
  split <;> simp [*]

/-- A slice with the layout of a frame is accepted exactly for its checksum (R127). -/
theorem frameDecode_frameBytes {p : Params} {d : Dialect} {cmd : Byte} {len params csum : List Byte}
    (h : FieldsFit d len params csum) :
    frameDecode p d (frameBytes d cmd len params csum) =
      if csum ≠ computeChecksum p d.alg (cmd :: (len ++ params)) then .error .badChecksum
      else .ok ⟨cmd, params, csum⟩ := by
  obtain ⟨hlen, ⟨n, hcount, hn⟩, hcsum⟩ := h
  have hT : frameLength d params.length = 3 + lengthBytes d.lw + params.length + checksumWidth d.alg := rfl
  have hpos : frameLength d params.length ≠ 0 := by omega
  have hheader : ¬ frameLength d params.length < 2 + lengthBytes d.lw := by omega
  simp only [frameDecode, length_frameBytes cmd hlen hcsum, hpos, getD_zero_frameBytes, hheader,
    slice_frameBytes_length cmd hlen, hcount, hn, Nat.lt_irrefl, getD_last_frameBytes cmd hlen hcsum,
    slice_frameBytes_params cmd hlen, slice_frameBytes_csum cmd hlen hcsum, slice_frameBytes_span cmd hlen,
    getD_one_frameBytes, ne_eq, not_true_eq_false, if_false]

/-- The frame check accepts nothing but the layout of a frame. -/
theorem layout_of_frameDecode_ok {p : Params} {d : Dialect} {raw : List Byte} {f : Frame}
    (h : frameDecode p d raw = .ok f) :
    ∃ cmd len params csum, raw = frameBytes d cmd len params csum ∧ FieldsFit d len params csum := by
  simp only [frameDecode, guard_eq_ok, not_not] at h
  obtain ⟨_, hstart, _, h⟩ := h
  split at h
  case h_1 => cases h
  case h_2 n hcount =>
    simp only [guard_eq_ok, not_not] at h
    obtain ⟨hshort, hlong, hend, _⟩ := h
    obtain ⟨cmd, len, params, csum, rfl, hlen, hparams, hcsum⟩ := exists_frameBytes (by omega) hstart hend
    rw [slice_frameBytes_length cmd hlen] at hcount
    exact ⟨cmd, len, params, csum, rfl, hlen, ⟨n, hcount, hparams.symm⟩, hcsum⟩

/-- What the frame check accepts (R127). -/
theorem frameDecode_eq_ok {p : Params} {d : Dialect} {raw : List Byte} {f : Frame} :
    frameDecode p d raw = .ok f ↔ ∃ len, raw = frameBytes d f.cmd len f.params f.csum ∧
      FieldsFit d len f.params f.csum ∧ f.csum = computeChecksum p d.alg (f.cmd :: (len ++ f.params)) := by
  constructor
  · intro h
    obtain ⟨cmd, len, params, csum, rfl, hfit⟩ := layout_of_frameDecode_ok h
    rw [frameDecode_frameBytes hfit, guard_eq_ok, not_not] at h
    obtain ⟨hcsum, hf⟩ := h
    cases hf
    exact ⟨len, rfl, hfit, hcsum⟩
  · rintro ⟨len, rfl, hfit, hcsum⟩
    rw [frameDecode_frameBytes hfit, if_neg (not_not.2 hcsum)]

/-! ## The round trip (R130) and the budget (R126) -/

/-- Settles O43: fields that fit are those the encoder writes. -/
theorem frameDecodeAcceptsExactlyEncodings : Obligations.FrameDecodeAcceptsExactlyEncodings := by
  intro p d raw f
  rw [frameDecode_eq_ok, frameEncode_eq_ok]
  constructor
  · rintro ⟨len, rfl, hfit, hcsum⟩
    obtain ⟨hfits, rfl, -⟩ := fieldsFit_iff.1 hfit
    exact ⟨⟨hfits, congrArg _ hcsum⟩, hcsum⟩
  · rintro ⟨⟨hfits, hraw⟩, hcsum⟩
    have hwidth : f.csum.length = checksumWidth d.alg := by rw [hcsum, length_computeChecksum]
    exact ⟨_, by rw [hraw, ← hcsum], fieldsFit_iff.2 ⟨hfits, rfl, hwidth⟩, hcsum⟩

/-- Settles O42: the frame of the statement carries the computed checksum, so O43 applies to it. -/
theorem frameDecodeOfFrameEncode : Obligations.FrameDecodeOfFrameEncode := fun p d cmd params raw henc =>
  (frameDecodeAcceptsExactlyEncodings p d raw ⟨cmd, params, _⟩).2 ⟨henc, rfl⟩

/-- Settles O44: no check of `frameDecode` reads `maxPayload`. -/
theorem frameDecodeIgnoresBudget : Obligations.FrameDecodeIgnoresBudget := fun _ _ _ _ => rfl

end Sys2Proof.Machine
end

section
/-! Settles the statements of 42_stream.md: what a FEED does in each resynchronizer state and what it leaves unchanged,
the events it emits, and the agreement of the stream with the frame check. -/

namespace Sys2Proof.Machine

/-! ## The parameters in the buffer (10_state.md R29) -/

/-- The buffer holds `params` at its first indices. -/
abbrev State.Holds (s : State) (params : List Byte) : Prop :=
  ∀ j (h : j < params.length), Memory.read s.buf j = some params[j]

theorem State.Holds.readRange {s : State} {params : List Byte} (h : s.Holds params) (hlen : params.length = s.P.toNat)
    (hP : s.P ≤ s.params.bufDepth) : memReadRange s 0 s.P.toNat = .ok params := by
  have hP' : s.P.toNat ≤ s.params.bufDepth.toNat := hP
  refine memReadRange_ok.2 ⟨hlen, fun j hj => memRead_ok.2 ?_⟩
  rw [Nat.zero_add]
  exact ⟨by omega, h j hj⟩

theorem holds_of_readRange {s : State} {n : Nat} {params : List Byte} (h : memReadRange s 0 n = .ok params) :
    params.length = n ∧ s.Holds params := by
  obtain ⟨hlen, hread⟩ := memReadRange_ok.1 h
  refine ⟨hlen, fun j hj => ?_⟩
  obtain ⟨_, hj'⟩ := memRead_ok.1 (hread j hj)
  rwa [Nat.zero_add] at hj'

/-- One more parameter byte is stored behind those the buffer holds. -/
theorem State.Holds.write_next {s : State} {params : List Byte} (h : s.Holds params) (b : Byte) :
    State.Holds { s with buf := Memory.write s.buf params.length b } (params ++ [b]) := by
  intro j hj
  by_cases hlast : j = params.length
  · subst hlast
    simp
  · have hlt : j < params.length := by
      rw [List.length_append, List.length_singleton] at hj
      omega
    rw [List.getElem_append_left hlt]
    exact (Memory.read_write_other s.buf hlast b).trans (h j hlt)

/-- Once the parameters are taken, the buffer holds them, below `BUF_DEPTH`. -/
theorem State.Inv.exists_holds {s : State} (hs : s.Inv) (hst : s.st = .readingChecksumEnd) :
    s.P ≤ s.params.bufDepth ∧ ∃ params : List Byte, params.length = s.P.toNat ∧ s.Holds params := by
  obtain ⟨_, _, _, hlen, hw⟩ := (phase_readingChecksumEnd hst).1 hs.phase
  have hP : s.P ≤ s.params.bufDepth := hs.count_le_bufDepth (by simp [hst]) hlen
  obtain ⟨params, hread⟩ : ∃ params, memReadRange s 0 s.P.toNat = .ok params :=
    memReadRange_exists fun j hj => by
      rw [Nat.zero_add]
      exact ⟨Nat.lt_of_lt_of_le hj hP, hw j hj⟩
  exact ⟨hP, params, holds_of_readRange hread⟩

/-! ## FEED, state by state (R141 to R148) -/

theorem exec_feed_zero (b : Byte) (s : State) : exec (.feed 0#32 b) s = feedByte b s := execFeed_zero b s

/-- Settles O17. -/
theorem feedUnconfiguredSetsFault : Obligations.FeedUnconfiguredSetsFault := by
  intro s b hst
  exact (exec_feed_zero b s).trans (feedByte_unconfigured hst b)

theorem reportGarbage_eq (s : State) :
    reportGarbage s = { s with
      events := if s.g = 0#32 then s.events else s.events ++ [.resync s.g .noStart], g := 0#32 } := by
  rw [← reportGarbage_events, ← reportGarbage_g s]
  unfold reportGarbage
  split <;> rfl

theorem garbageIncr_eq (g : BitVec 32) : garbageIncr g = if g = 0xFFFFFFFF#32 then g else g + 1#32 := by
  unfold garbageIncr
  by_cases hg : g = 0xFFFFFFFF#32
  · rw [if_pos hg, if_neg (by bv_omega)]
  · rw [if_neg hg, if_pos (by bv_omega)]

/-- Settles O18. -/
theorem feedSeekingStart : Obligations.FeedSeekingStart := by
  intro s b hst
  rw [exec_feed_zero, feedByte_seekingStart hst]
  by_cases hb : b = s.cfg.startByte
  · rw [feedSeek_start hb, if_pos hb, reportGarbage_eq]
  · rw [feedSeek_skip hb, if_neg hb, garbageIncr_eq]

/-- Settles O19. -/
theorem feedReadsCommandCodeAndLength : Obligations.FeedReadsCommandCodeAndLength := by
  intro s b hst hk
  rw [exec_feed_zero, feedByte_readingLength hst]
  by_cases hk0 : s.k = 0#16
  · rw [feedLen_code hk0, if_pos hk0]
  · rw [feedLen_more hk0 hk, if_neg hk0, addLengthByte]

/-- Settles O20: the policy decides whether the length gives a count, then the budget whether the count is taken. -/
theorem feedChecksDeclaredLength : Obligations.FeedChecksDeclaredLength := by
  intro s b l p hst hk hl hp
  have hl' : addLengthByte s.L b = l := hl.symm
  rw [exec_feed_zero, feedByte_readingLength hst, feedLen_last hk, hl']
  constructor
  · by_cases hbad : s.cfg.lc = .payloadPlusCommand ∧ l = 0#16
    · rw [if_pos hbad, lengthDone_none (paramCount_eq_none.2 hbad)]
      rfl
    · have hcount : paramCount s.cfg.lc l = some p := paramCount_eq_some.2 ⟨hbad, hp⟩
      rw [if_neg hbad]
      by_cases hbudget : s.cfg.maxPayload < p
      · rw [if_pos hbudget, lengthDone_budget (by exact hcount) (by exact hbudget)]
        rfl
      · rw [if_neg hbudget, lengthDone_accept (by exact hcount) (by exact BitVec.not_lt.1 hbudget)]
  · intro hs
    obtain ⟨_, hc, _⟩ := (phase_readingLength hst).1 hs.phase
    rw [hs.count_succ]
    omega

/-- Everything READING_PAYLOAD can do: the byte's index is inside the buffer, and the byte is stored there (R145). -/
theorem feedPay_cases {s t : State} {b : Byte} (h : feedPay b s = .next t) :
    s.k < s.params.bufDepth ∧ t = payDone { s with buf := Memory.write s.buf s.k.toNat b } := by
  by_cases hk : s.k < s.params.bufDepth
  · rw [feedPay_next hk] at h
    cases h
    exact ⟨hk, rfl⟩
  · rw [feedPay_fault (BitVec.not_lt.1 hk)] at h
    cases h

/-- Settles O21. -/
theorem feedBuffersParameterByte : Obligations.FeedBuffersParameterByte := by
  intro s b hst hk
  rw [exec_feed_zero, feedByte_readingPayload hst, feedPay_next hk, payDone_eq]
  exact ⟨_, rfl, Memory.read_write_same _ _ _, fun a ha => Memory.read_write_other _ ha _, by simp only [hst]⟩

/-- Settles O22. -/
theorem feedTakesChecksumByte : Obligations.FeedTakesChecksumByte := by
  intro s b hst hk
  exact (exec_feed_zero b s).trans (feedByte_checksum hst hk b)

/-- Settles O23: the end byte decides first, then the checksum over the parameters the buffer holds. -/
theorem feedEndsFrame : Obligations.FeedEndsFrame := by
  intro s b params hst hk hP hlen hbuf
  rw [exec_feed_zero, feedByte_end hst hk]
  constructor
  · by_cases hb : b = s.cfg.endByte
    · subst hb
      rw [if_neg (not_not.2 rfl), feedEnd_good (State.Holds.readRange hbuf hlen hP)]
      by_cases hsum : s.rx = computeChecksum s.params s.cfg.alg (s.cmd :: (lenBytes s.cfg.lw s.L ++ params))
      · rw [checkFrame_good (by exact hsum), if_neg (not_not.2 hsum)]
        rfl
      · rw [checkFrame_bad (by exact hsum), if_pos hsum]
        rfl
    · rw [if_pos hb, feedEnd_wrongEnd hb]
      rfl
  · intro hs
    obtain ⟨hk', _, hc, _⟩ := (phase_readingChecksumEnd hst).1 hs.phase
    rw [hs.count_succ]
    omega

/-! ## What a FEED leaves unchanged (R140, R143, R145) -/

@[simp] theorem checkFrame_cmd (s : State) (params : List Byte) : (checkFrame s params).cmd = s.cmd := by
  obtain ⟨e, he⟩ := checkFrame_eq_toSeek_emit s params
  rw [he, toSeek_cmd, emit_cmd]

@[simp] theorem checkFrame_buf (s : State) (params : List Byte) : (checkFrame s params).buf = s.buf := by
  obtain ⟨e, he⟩ := checkFrame_eq_toSeek_emit s params
  rw [he, toSeek_buf, emit_buf]

/-- The end position leaves the command code and the buffer alone (R147). -/
theorem feedEnd_keeps {s t : State} {b : Byte} (h : feedEnd b s = .next t) : t.cmd = s.cmd ∧ t.buf = s.buf := by
  by_cases hb : b = s.cfg.endByte
  · subst hb
    cases hr : memReadRange s 0 s.P.toNat with
    | error e =>
      rw [feedEnd_fault hr] at h
      cases h
    | ok params =>
      rw [feedEnd_good hr] at h
      cases h
      simp
  · rw [feedEnd_wrongEnd hb] at h
    cases h
    simp

theorem lengthDone_keeps (s : State) : (lengthDone s).cmd = s.cmd ∧ (lengthDone s).buf = s.buf := by
  cases hp : paramCount s.cfg.lc s.L with
  | none => simp [lengthDone_none hp]
  | some n =>
    by_cases hn : s.cfg.maxPayload < n
    · simp [lengthDone_budget hp hn]
    · simp [lengthDone_accept hp (BitVec.not_lt.1 hn)]

theorem feedLen_keeps (b : Byte) (s : State) :
    (feedLen b s).cmd = (if s.k = 0#16 then b else s.cmd) ∧ (feedLen b s).buf = s.buf := by
  by_cases hk0 : s.k = 0#16
  · simp [feedLen_code hk0, hk0]
  by_cases hlast : s.k.toNat = lengthBytes s.cfg.lw
  · simp [feedLen_last hlast, lengthDone_keeps, hk0]
  · simp [feedLen_more hk0 hlast, hk0]

/-- The received command code after a FEED (R143), and the buffer (R145). -/
theorem feedByte_cmd_buf {s t : State} {b : Byte} (h : feedByte b s = .next t) :
    t.cmd = (if s.st = .readingLength ∧ s.k = 0#16 then b else s.cmd) ∧
      t.buf = if s.st = .readingPayload then Memory.write s.buf s.k.toNat b else s.buf := by
  cases hst : s.st with
  | unconfigured =>
    rw [feedByte_unconfigured hst] at h
    cases h
    simp
  | seekingStart =>
    rw [feedByte_seekingStart hst] at h
    cases h
    by_cases hb : b = s.cfg.startByte
    · simp [feedSeek_start hb]
    · simp [feedSeek_skip hb]
  | readingLength =>
    rw [feedByte_readingLength hst] at h
    cases h
    simp [feedLen_keeps]
  | readingPayload =>
    rw [feedByte_readingPayload hst] at h
    obtain ⟨_, rfl⟩ := feedPay_cases h
    simp [payDone_eq]
  | readingChecksumEnd =>
    by_cases hk : s.k.toNat < checksumWidth s.cfg.alg
    · rw [feedByte_checksum hst hk] at h
      cases h
      simp [feedCsum]
    · rw [feedByte_end hst (Nat.not_lt.1 hk)] at h
      simp [feedEnd_keeps h]

/-- Outside SEEKING_START a FEED leaves the garbage counter alone (R142). -/
theorem feedByte_garbage {s t : State} {b : Byte} (hst : s.st ≠ .seekingStart) (h : feedByte b s = .next t) :
    t.g = s.g := by
  cases feedByte_cases h with
  | unconfigured _ ht => subst ht; simp
  | start hst' _ _ => exact absurd hst' hst
  | skip hst' _ _ => exact absurd hst' hst
  | attempt _ _ ht =>
    cases ht with
    | taken ht => exact ht.garbage
    | ended _ _ ht => exact ht.garbage

/-- The places where a FEED of `b` can emit an event (R152). -/
abbrev State.MayEmit (s : State) (b : Byte) : Prop :=
  (s.st = .seekingStart ∧ b = s.cfg.startByte ∧ s.g ≠ 0#32) ∨
    (s.st = .readingLength ∧ s.k.toNat = lengthBytes s.cfg.lw) ∨
    (s.st = .readingChecksumEnd ∧ checksumWidth s.cfg.alg ≤ s.k.toNat)

theorem EndEvent.mayEmit {s : State} {b : Byte} {e : Event} (he : EndEvent s b e) : s.MayEmit b := by
  cases he with
  | lengthField r hst hk _ => exact .inr (.inl ⟨hst, hk⟩)
  | endPosition r hst hk _ => exact .inr (.inr ⟨hst, hk⟩)
  | frame params hst hk _ _ => exact .inr (.inr ⟨hst, hk⟩)

/-- A FEED emits at most one event, and only in the places of R152. -/
theorem feedByte_events {s t : State} {b : Byte} (h : feedByte b s = .next t) :
    t.events = s.events ∨ ∃ e, t.events = s.events ++ [e] ∧ s.MayEmit b := by
  cases feedByte_cases h with
  | unconfigured _ ht => exact .inl (by simp [ht])
  | start hst hb ht =>
    subst ht
    by_cases hg : s.g = 0#32
    · exact .inl (by simp [hg])
    · exact .inr ⟨.resync s.g .noStart, by simp [hg], .inl ⟨hst, hb, hg⟩⟩
  | skip _ _ ht => exact .inl (by simp [ht])
  | attempt _ _ ht =>
    cases ht with
    | taken ht => exact .inl ht.events
    | ended e he ht => exact .inr ⟨e, ht.events, he.mayEmit⟩

/-- Settles O24: the FEED is performed, or refused for its reserved bits. -/
theorem feedFrame : Obligations.FeedFrame := by
  intro s t rsv b h
  obtain ⟨rfl, h⟩ | ⟨hr, rfl⟩ := exec_feed_cases h
  · obtain ⟨hparams, hcfg, hvalid, hinput, hfcfg, hfop⟩ := feedByte_keeps h
    obtain ⟨hcmd, hbuf⟩ := feedByte_cmd_buf h
    refine ⟨hparams, hcfg, hvalid, hinput, hfcfg, fun hr => absurd rfl hr, fun _ => hfop, ?_, ?_,
      fun hst => feedByte_garbage hst h, ?_, ?_⟩
    · intro hst
      simp [feedByte_fUnconf h, hst]
    · intro hcode
      rw [hcmd, if_neg (fun hc => hcode ⟨rfl, hc⟩)]
    · intro a ha
      rw [hbuf]
      split
      · rename_i hst
        exact Memory.read_write_other _ (ha rfl hst) b
      · rfl
    · obtain hev | ⟨e, hev, _⟩ := feedByte_events h
      · exact hev ▸ List.prefix_rfl
      · exact hev ▸ List.prefix_append _ _
  · simp [hr, raiseFault]

/-! ## The events of a command (R150 to R153, R158) -/

/-- RESET, CONFIGURE and the reserved command emit nothing (70_reset_and_hazards.md R214, R215). -/
theorem exec_control_events {i : Instr} {s t : State} (hi : ∀ rsv b, i ≠ .feed rsv b) (h : exec i s = .next t) :
    t.events = s.events := by
  cases i with
  | feed rsv b => exact absurd rfl (hi rsv b)
  | reset rsv => obtain ⟨_, rfl⟩ | ⟨_, rfl⟩ := exec_reset_cases h <;> simp
  | configure start stop alg lw lc rsv m => obtain ⟨d, _, rfl⟩ | ⟨_, rfl⟩ := execConfigure_cases h <;> simp
  | reservedOp3 arg =>
    obtain rfl := exec_reservedOp3_next h
    simp

/-- Settles O27. -/
theorem atMostOneEventPerCommand : Obligations.AtMostOneEventPerCommand := by
  intro i s t h
  cases i with
  | feed rsv b =>
    obtain ⟨rfl, h⟩ | ⟨_, rfl⟩ := exec_feed_cases h
    · exact (feedByte_events h).imp id fun ⟨e, hev, hplace⟩ => ⟨e, b, hev, rfl, hplace⟩
    · exact .inl (by simp)
  | _ => exact .inl (exec_control_events (by simp) h)

/-- Settles O48: a byte of an attempt is taken, or ends it with one of the events of R144 and R147. -/
theorem attemptEndsWithItsOnlyEvent : Obligations.AttemptEndsWithItsOnlyEvent := by
  intro s t b hcfg hin h
  rw [exec_feed_zero] at h
  cases feedByte_cases h with
  | unconfigured hst _ => exact absurd hst hcfg
  | start hst _ _ => exact absurd hst hin
  | skip hst _ _ => exact absurd hst hin
  | attempt _ _ ht =>
    cases ht with
    | taken ht => exact .inl ⟨ht.st.1, ht.st.2, ht.events, ht.count⟩
    | ended e he ht =>
      refine .inr ⟨ht.st, ht.idle, e, ht.events, ?_⟩
      cases he with
      | lengthField r hst _ hr => exact ⟨rfl, .inl ⟨hst, hr⟩⟩
      | endPosition r hst _ hr => exact ⟨rfl, .inr ⟨hst, hr⟩⟩
      | frame params hst _ hb _ => exact ⟨hst, hb, rfl⟩

/-- In every state of the invariant the count of a Resync that ends an attempt is at least 1 (R151). -/
theorem State.Inv.one_le_count_succ {s : State} (hs : s.Inv) : 1#32 ≤ s.c + 1#32 := by
  have hc : (s.c + 1#32).toNat = s.c.toNat + 1 := hs.count_succ
  show 1 ≤ (s.c + 1#32).toNat
  omega

/-- Settles O28, one case for each place where an event can be emitted; the statement of that place gives the event. -/
theorem emittedEventsAreMeaningful : Obligations.EmittedEventsAreMeaningful := by
  intro i s t e hs h hev
  have hone := hs.one_le_count_succ
  obtain hsame | ⟨e', b, hev', rfl, hplace⟩ := atMostOneEventPerCommand i s t h
  · simp [hsame] at hev
  obtain rfl : e' = e := by simpa [hev] using hev'.symm
  obtain ⟨hst, hb, hg⟩ | ⟨hst, hk⟩ | ⟨hst, hk⟩ := hplace
  · cases (feedSeekingStart s b hst).symm.trans h
    obtain rfl : Event.resync s.g .noStart = e' := by simpa [hb, hg] using hev'
    show 1#32 ≤ s.g
    bv_omega
  · obtain ⟨_, _, hsame, _⟩ | ⟨_, _, e, hev, hsays⟩ :=
      attemptEndsWithItsOnlyEvent s t b (by simp [hst]) (by simp [hst]) h
    · simp [hsame] at hev'
    obtain rfl : e' = e := by simpa [hev'] using hev
    cases e' with
    | frame f => cases hst.symm.trans hsays.1
    | resync n r => exact hsays.1 ▸ hone
  · obtain ⟨hP, params, hlen, hbuf⟩ := hs.exists_holds hst
    obtain ⟨_, _, _, ⟨_, hbudget, _⟩, _⟩ := (phase_readingChecksumEnd hst).1 hs.phase
    have hbudget' : s.P.toNat ≤ s.cfg.maxPayload.toNat := hbudget
    cases (feedEndsFrame s b params hst hk hP hlen hbuf).1.symm.trans h
    obtain he := List.head_eq_of_cons_eq (List.append_cancel_left hev')
    subst he
    by_cases hb : b = s.cfg.endByte
    · by_cases hsum : s.rx = computeChecksum s.params s.cfg.alg (s.cmd :: (lenBytes s.cfg.lw s.L ++ params))
      · rw [if_neg (not_not.2 hb), if_neg (not_not.2 hsum)]
        exact ⟨rfl, hlen, hlen.trans_le hbudget', by rw [hsum, length_computeChecksum], hsum⟩
      · rw [if_neg (not_not.2 hb), if_pos hsum]
        exact hone
    · rw [if_pos hb]
      exact hone

/-- Settles O29, one case for each kind of byte; the next state is written out in each. -/
theorem noByteIsSpecialInsideAttempt : Obligations.NoByteIsSpecialInsideAttempt := by
  intro s t1 t2 b1 b2 hplace h1 h2
  rw [exec_feed_zero] at h1 h2
  obtain ⟨hst, hk⟩ | hst | ⟨hst, hk⟩ := hplace
  · rw [feedByte_readingLength hst, feedLen_code hk] at h1 h2
    cases h1
    cases h2
    simp [hst]
  · rw [feedByte_readingPayload hst] at h1 h2
    obtain ⟨_, rfl⟩ := feedPay_cases h1
    obtain ⟨_, rfl⟩ := feedPay_cases h2
    simp only [payDone_eq, hst, true_and]
    split <;> simp
  · rw [feedByte_checksum hst hk] at h1 h2
    cases h1
    cases h2
    simp [feedCsum, hst]

/-- Settles O45, by induction on the chunks. -/
theorem fragmentationInvariance : Obligations.FragmentationInvariance := by
  intro chunks
  induction chunks with
  | nil => exact fun _ => rfl
  | cons bs rest ih =>
    intro s
    rw [List.flatten_cons, feedAll_append, feedChunks]
    cases feedAll bs s with
    | next t => exact ih t
    | fault _ => rfl
    | refused _ => rfl

/-! ## What the frame check says of an unfinished or spoilt slice (41_frame_check.md R124) -/

/-- A slice that does not reach the end of the length field is truncated. -/
theorem frameDecode_short {p : Params} {d : Dialect} {raw rest : List Byte} (h : raw <+: d.startByte :: rest)
    (hlen : raw.length < 2 + lengthBytes d.lw) : frameDecode p d raw = .error .truncated := by
  cases raw with
  | nil => rfl
  | cons a raw =>
    obtain ⟨rfl, _⟩ := List.cons_prefix_cons.1 h
    rw [frameDecode, if_neg (by simp), if_neg (by simp)]
    exact if_pos hlen

section Header

variable {p : Params} {d : Dialect} {cmd : Byte} {len rest : List Byte}

theorem slice_header (hlen : len.length = lengthBytes d.lw) :
    slice (d.startByte :: cmd :: (len ++ rest)) 2 (2 + lengthBytes d.lw) = len :=
  slice_of_append (pre := [d.startByte, cmd]) rfl rfl (congrArg _ hlen)

theorem not_header_short (hlen : len.length = lengthBytes d.lw) :
    ¬ (d.startByte :: cmd :: (len ++ rest)).length < 2 + lengthBytes d.lw := by
  simp only [List.length_cons, List.length_append]
  omega

/-- A declared length that matches no frame is found as soon as it is complete. -/
theorem frameDecode_noCount (hlen : len.length = lengthBytes d.lw) (hcount : paramCount d.lc (lengthValue len) = none) :
    frameDecode p d (d.startByte :: cmd :: (len ++ rest)) = .error .lengthMismatch := by
  rw [frameDecode, if_neg (by simp), if_neg (by simp)]
  simp only [if_neg (not_header_short hlen), slice_header hlen, hcount]

/-- A slice shorter than the frame its length field declares is truncated. -/
theorem frameDecode_unfinished {n : BitVec 16} (hlen : len.length = lengthBytes d.lw)
    (hcount : paramCount d.lc (lengthValue len) = some n)
    (hshort : (d.startByte :: cmd :: (len ++ rest)).length < frameLength d n.toNat) :
    frameDecode p d (d.startByte :: cmd :: (len ++ rest)) = .error .truncated := by
  rw [frameDecode, if_neg (by simp), if_neg (by simp)]
  simp only [if_neg (not_header_short hlen), slice_header hlen, hcount, if_pos hshort]

end Header

/-- A slice of the length of a frame with another last byte (R124). The layout is that of a Dialect with this end
byte. -/
theorem frameDecode_wrongEnd {p : Params} {d : Dialect} {cmd b : Byte} {len params csum : List Byte}
    (hfit : FieldsFit d len params csum) (hb : b ≠ d.endByte) :
    frameDecode p d (d.startByte :: cmd :: (len ++ (params ++ (csum ++ [b])))) = .error .unexpectedStartEnd := by
  obtain ⟨hlen, ⟨n, hcount, hn⟩, hcsum⟩ := hfit
  have hlength : (d.startByte :: cmd :: (len ++ (params ++ (csum ++ [b])))).length = frameLength d n.toNat := by
    rw [hn]
    exact length_frameBytes (d := { d with endByte := b }) cmd hlen hcsum
  have hlast : (d.startByte :: cmd :: (len ++ (params ++ (csum ++ [b])))).getD (frameLength d n.toNat - 1) 0 = b := by
    rw [hn]
    exact getD_last_frameBytes (d := { d with endByte := b }) cmd hlen hcsum
  have hheader : ¬ frameLength d n.toNat < 2 + lengthBytes d.lw := hlength ▸ not_header_short hlen
  rw [frameDecode, if_neg (by simp), if_neg (by simp)]
  simp only [slice_header hlen, hcount, hlength, if_neg hheader, Nat.lt_irrefl, if_false, hlast, if_pos hb]

/-- A beginning of the layout of a frame stops before the length field is complete, or shows all of it. -/
theorem prefix_frameBytes_cases {d : Dialect} {cmd : Byte} {len params csum raw : List Byte}
    (hlen : len.length = lengthBytes d.lw) (h : raw <+: frameBytes d cmd len params csum) :
    raw.length < 2 + lengthBytes d.lw ∨ ∃ rest, raw = d.startByte :: cmd :: (len ++ rest) := by
  obtain hshort | hlong := Nat.lt_or_ge raw.length (2 + lengthBytes d.lw)
  · exact .inl hshort
  · have hheader : d.startByte :: cmd :: len <+: frameBytes d cmd len params csum := List.prefix_append _ _
    obtain ⟨rest, rfl⟩ := List.prefix_of_prefix_length_le hheader h (by simp only [List.length_cons]; omega)
    exact .inr ⟨rest, rfl⟩

/-- A frame's layout without its end is truncated. -/
theorem frameDecode_properPrefix {p : Params} {d : Dialect} {cmd : Byte} {len params csum raw : List Byte}
    (hfit : FieldsFit d len params csum) (h : raw <+: frameBytes d cmd len params csum)
    (hproper : raw.length < (frameBytes d cmd len params csum).length) :
    frameDecode p d raw = .error .truncated := by
  obtain ⟨hlen, ⟨n, hcount, hn⟩, hcsum⟩ := hfit
  rw [length_frameBytes cmd hlen hcsum, ← hn] at hproper
  obtain hshort | ⟨rest, rfl⟩ := prefix_frameBytes_cases hlen h
  · exact frameDecode_short h hshort
  · exact frameDecode_unfinished hlen hcount hproper

/-! ## An open attempt and its bytes (R156) -/

/-- The bytes of the attempt in progress are `raw`, by the field it has reached: the block holds all of them. -/
inductive AttemptBytes (s : State) (raw : List Byte) : Prop where
  | start (hraw : raw = [s.cfg.startByte]) (hst : s.st = .readingLength) (hk : s.k = 0#16)
  | length (len : List Byte) (hraw : raw = s.cfg.startByte :: s.cmd :: len) (hst : s.st = .readingLength)
      (hk : s.k.toNat = 1 + len.length) (hL : s.L = lengthValue len)
  | payload (len params : List Byte) (hraw : raw = s.cfg.startByte :: s.cmd :: (len ++ params))
      (hst : s.st = .readingPayload) (hlen : len.length = lengthBytes s.cfg.lw) (hL : s.L = lengthValue len)
      (hk : params.length = s.k.toNat) (hbuf : s.Holds params)
  | checksum (len params : List Byte) (hraw : raw = s.cfg.startByte :: s.cmd :: (len ++ (params ++ s.rx)))
      (hst : s.st = .readingChecksumEnd) (hlen : len.length = lengthBytes s.cfg.lw) (hL : s.L = lengthValue len)
      (hP : params.length = s.P.toNat) (hbuf : s.Holds params)

theorem AttemptBytes.st_ne {s : State} {raw : List Byte} (h : AttemptBytes s raw) : s.st ≠ .seekingStart := by
  cases h <;> simp [*]

/-- The attempt's counter is the number of its bytes (10_state.md R26). -/
theorem AttemptBytes.count {s : State} {raw : List Byte} (hs : s.Inv) (h : AttemptBytes s raw) :
    s.c.toNat = raw.length := by
  cases h with
  | start hraw hst hk =>
    obtain ⟨_, hc, _⟩ := (phase_readingLength hst).1 hs.phase
    simp [hraw, hc, hk]
  | length len hraw hst hk hL =>
    obtain ⟨_, hc, _⟩ := (phase_readingLength hst).1 hs.phase
    simp only [hraw, List.length_cons]
    omega
  | payload len params hraw hst hlen hL hk hbuf =>
    obtain ⟨_, hc, _⟩ := (phase_readingPayload hst).1 hs.phase
    simp only [hraw, List.length_cons, List.length_append]
    omega
  | checksum len params hraw hst hlen hL hP hbuf =>
    obtain ⟨_, hrx, hc, _⟩ := (phase_readingChecksumEnd hst).1 hs.phase
    simp only [hraw, List.length_cons, List.length_append]
    omega

/-- The frame check calls the bytes of an open attempt truncated. -/
theorem AttemptBytes.truncated {s : State} {raw : List Byte} (hs : s.Inv) (h : AttemptBytes s raw) :
    frameDecode s.params s.cfg raw = .error .truncated := by
  have hcount := h.count hs
  have hN := lengthBytes_pos s.cfg.lw
  cases h with
  | start hraw hst hk =>
    obtain ⟨_, hc, _⟩ := (phase_readingLength hst).1 hs.phase
    subst hraw
    exact frameDecode_short List.prefix_rfl (by simp only [List.length_singleton]; omega)
  | length len hraw hst hk hL =>
    obtain ⟨hk', hc, _⟩ := (phase_readingLength hst).1 hs.phase
    subst hraw
    exact frameDecode_short List.prefix_rfl (by omega)
  | payload len params hraw hst hlen hL hk hbuf =>
    obtain ⟨hkP, hc, _, ⟨hacc, _, _⟩, _⟩ := (phase_readingPayload hst).1 hs.phase
    have hkP' : s.k.toNat < s.P.toNat := hkP
    subst hraw
    refine frameDecode_unfinished hlen (hL ▸ hacc) ?_
    rw [← hcount, frameLength]
    omega
  | checksum len params hraw hst hlen hL hP hbuf =>
    obtain ⟨hk, _, hc, ⟨hacc, _, _⟩, _⟩ := (phase_readingChecksumEnd hst).1 hs.phase
    subst hraw
    refine frameDecode_unfinished hlen (hL ▸ hacc) ?_
    rw [← hcount, frameLength]
    omega

/-! ## One byte of an attempt, and the frame check -/

/-- From `s`, the byte that completes `raw` leads to `t`: the attempt goes on and `t` holds its fields, or it ends with
an event that agrees with the frame check. -/
inductive ByteAgrees (s : State) (raw : List Byte) (t : State) : Prop where
  | goesOn (h : AttemptBytes t raw) (hev : t.events = s.events)
  | ends (e : Event) (hst : t.st = .seekingStart) (hev : t.events = s.events ++ [e]) (he : EventAgrees s raw e)

/-- The last length byte: the stream finds the count the frame check finds, or none (R144). -/
theorem lengthDone_agrees {s : State} {len : List Byte} (hs : s.Inv) (hst : s.st = .readingLength)
    (hlen : len.length = lengthBytes s.cfg.lw) (hc : s.c.toNat = 1 + len.length) :
    ByteAgrees s (s.cfg.startByte :: s.cmd :: len)
      (lengthDone { s with c := s.c + 1#32, L := lengthValue len, k := s.k + 1#16 }) := by
  obtain ⟨_, _, _, hrx, _⟩ := (phase_readingLength hst).1 hs.phase
  have htotal : (s.cfg.startByte :: s.cmd :: len).length = 2 + lengthBytes s.cfg.lw := by
    simp only [List.length_cons]
    omega
  have hnat : (s.c + 1#32).toNat = (s.cfg.startByte :: s.cmd :: len).length := by
    rw [htotal, hs.count_succ]
    omega
  cases hp : paramCount s.cfg.lc (lengthValue len) with
  | none =>
    rw [lengthDone_none (by exact hp)]
    have hdec := frameDecode_noCount (p := s.params) (cmd := s.cmd) (rest := []) hlen hp
    rw [List.append_nil] at hdec
    exact .ends (.resync (s.c + 1#32) .lengthMismatch) rfl rfl ⟨hnat, hdec⟩
  | some n =>
    by_cases hn : s.cfg.maxPayload < n
    · rw [lengthDone_budget (by exact hp) (by exact hn)]
      have hslice := slice_header (d := s.cfg) (cmd := s.cmd) (rest := []) hlen
      rw [List.append_nil] at hslice
      refine .ends (.resync (s.c + 1#32) .budgetExceeded) rfl rfl ⟨hnat, htotal, n, ?_, hn⟩
      rw [htotal, hslice, hp]
    · rw [lengthDone_accept (by exact hp) (by exact BitVec.not_lt.1 hn)]
      refine .goesOn ?_ rfl
      by_cases h0 : 0#16 < n
      · rw [if_pos h0]
        exact .payload len [] (by simp) rfl hlen rfl rfl nofun
      · obtain rfl : n = 0#16 := by bv_omega
        rw [if_neg h0]
        exact .checksum len [] (by simp [hrx]) rfl hlen rfl rfl nofun

/-- READING_LENGTH after the command code: a length byte (R143). -/
theorem lengthByte_agrees {s : State} {len : List Byte} (hs : s.Inv) (hst : s.st = .readingLength)
    (hk : s.k.toNat = 1 + len.length) (hL : s.L = lengthValue len) (b : Byte) :
    ByteAgrees s (s.cfg.startByte :: s.cmd :: (len ++ [b])) (feedLen b s) := by
  obtain ⟨hkN, hc, _⟩ := (phase_readingLength hst).1 hs.phase
  have hN := lengthBytes_le s.cfg.lw
  have hlength : (len ++ [b]).length = s.k.toNat := by
    rw [List.length_append, List.length_singleton]
    omega
  have hL' : addLengthByte s.L b = lengthValue (len ++ [b]) := by rw [lengthValue_append, hL]
  by_cases hlast : s.k.toNat = lengthBytes s.cfg.lw
  · rw [feedLen_last hlast, hL']
    exact lengthDone_agrees hs hst (hlength.trans hlast) (hlength ▸ hc)
  · have hk0 : s.k ≠ 0#16 := by bv_omega
    have hk' : (s.k + 1#16).toNat = 1 + s.k.toNat := by bv_omega
    rw [feedLen_more hk0 hlast]
    exact .goesOn (.length (len ++ [b]) rfl hst (hlength.symm ▸ hk') hL') rfl

/-- READING_PAYLOAD: the byte is one more parameter (R145). -/
theorem parameterByte_agrees {s t : State} {len params : List Byte} {b : Byte} (hs : s.Inv)
    (hst : s.st = .readingPayload) (hlen : len.length = lengthBytes s.cfg.lw) (hL : s.L = lengthValue len)
    (hk : params.length = s.k.toNat) (hbuf : s.Holds params) (hfeed : feedPay b s = .next t) :
    ByteAgrees s (s.cfg.startByte :: s.cmd :: (len ++ (params ++ [b]))) t := by
  obtain ⟨hkP, _, hrx, _⟩ := (phase_readingPayload hst).1 hs.phase
  have hk' : (s.k + 1#16).toNat = s.k.toNat + 1 := by bv_omega
  have hlength : (params ++ [b]).length = (s.k + 1#16).toNat := by
    rw [List.length_append, List.length_singleton, hk', hk]
  have hbuf' := hk ▸ hbuf.write_next b
  obtain ⟨_, rfl⟩ := feedPay_cases hfeed
  rw [payDone_eq]
  refine .goesOn ?_ rfl
  by_cases hlast : s.k + 1#16 = s.P
  · simp only [if_pos hlast]
    exact .checksum len (params ++ [b]) (by simp [hrx]) rfl hlen hL (hlast ▸ hlength) hbuf'
  · simp only [if_neg hlast]
    exact .payload len (params ++ [b]) rfl hst hlen hL hlength hbuf'

/-- The end position, where the frame check sees a slice of the length of a frame (R147). -/
theorem endByte_agrees {s t : State} {len params : List Byte} {b : Byte} (hs : s.Inv)
    (hst : s.st = .readingChecksumEnd) (hW : checksumWidth s.cfg.alg ≤ s.k.toNat)
    (hlen : len.length = lengthBytes s.cfg.lw) (hL : s.L = lengthValue len) (hcount : params.length = s.P.toNat)
    (hbuf : s.Holds params) (hfeed : feedByte b s = .next t) :
    ByteAgrees s (s.cfg.startByte :: s.cmd :: (len ++ (params ++ (s.rx ++ [b])))) t := by
  obtain ⟨hk, hrx, hc, ⟨hacc, _, _⟩, _⟩ := (phase_readingChecksumEnd hst).1 hs.phase
  have hfit : FieldsFit s.cfg len params s.rx := ⟨hlen, ⟨s.P, hL ▸ hacc, hcount.symm⟩, by omega⟩
  have hnat : (s.c + 1#32).toNat = (s.cfg.startByte :: s.cmd :: (len ++ (params ++ (s.rx ++ [b])))).length := by
    rw [hs.count_succ]
    simp only [List.length_cons, List.length_append, List.length_nil]
    omega
  obtain ⟨hP, _⟩ := hs.exists_holds hst
  obtain ⟨hnext, _⟩ := feedEndsFrame s b params hst hW hP hcount hbuf
  rw [exec_feed_zero, hfeed, hL, (lenBytes_lengthValue s.cfg.lw len hlen).1] at hnext
  cases hnext
  refine .ends _ rfl rfl ?_
  by_cases hb : b = s.cfg.endByte
  · subst hb
    have hdec := frameDecode_frameBytes (p := s.params) (cmd := s.cmd) hfit
    rw [if_neg (not_not.2 rfl)]
    by_cases hsum : s.rx = computeChecksum s.params s.cfg.alg (s.cmd :: (len ++ params))
    · rw [if_neg (not_not.2 hsum)] at hdec ⊢
      exact hdec
    · rw [if_pos hsum] at hdec ⊢
      exact ⟨hnat, hdec⟩
  · rw [if_pos hb]
    exact ⟨hnat, frameDecode_wrongEnd hfit hb⟩

/-- One byte of an attempt: the stream and the frame check agree on it. -/
theorem feedByte_agrees {s t : State} {raw : List Byte} {b : Byte} (hs : s.Inv) (h : AttemptBytes s raw)
    (hfeed : feedByte b s = .next t) : ByteAgrees s (raw ++ [b]) t := by
  cases h with
  | start hraw hst hk =>
    obtain ⟨_, _, _, _, _, hL⟩ := (phase_readingLength hst).1 hs.phase
    rw [feedByte_readingLength hst, feedLen_code hk] at hfeed
    cases hfeed
    exact .goesOn (.length [] (by simp [hraw]) hst rfl (hL (by simp [hk]))) rfl
  | length len hraw hst hk hL =>
    rw [feedByte_readingLength hst] at hfeed
    cases hfeed
    rw [hraw]
    exact lengthByte_agrees hs hst hk hL b
  | payload len params hraw hst hlen hL hk hbuf =>
    rw [feedByte_readingPayload hst] at hfeed
    rw [hraw, List.cons_append, List.cons_append, List.append_assoc]
    exact parameterByte_agrees hs hst hlen hL hk hbuf hfeed
  | checksum len params hraw hst hlen hL hP hbuf =>
    rw [hraw, List.cons_append, List.cons_append, List.append_assoc, List.append_assoc]
    by_cases hW : s.k.toNat < checksumWidth s.cfg.alg
    · rw [feedByte_checksum hst hW] at hfeed
      cases hfeed
      exact .goesOn (.checksum len params rfl hst hlen hL hP hbuf) rfl
    · exact endByte_agrees hs hst (Nat.not_lt.1 hW) hlen hL hP hbuf hfeed

/-! ## A whole attempt (R156) -/

/-- Feeding `raw` leads from `s` to `t`, a state of the invariant with the same setup and no garbage run. -/
structure Fed (s : State) (raw : List Byte) (t : State) : Prop where
  run : feedAll raw s = .next t
  inv : t.Inv
  params : t.params = s.params
  cfg : t.cfg = s.cfg
  garbage : t.g = 0#32

/-- After `raw` the attempt that its first byte opened is in progress, and only the garbage run was reported. -/
structure AttemptOpen (s : State) (raw : List Byte) (t : State) : Prop extends Fed s raw t where
  events : t.events = (reportGarbage s).events
  bytes : AttemptBytes t raw

/-- The last byte of `raw` ended the attempt with the event `e`, which agrees with the frame check. -/
structure AttemptClosed (s : State) (raw : List Byte) (t : State) (e : Event) : Prop extends Fed s raw t where
  st : t.st = .seekingStart
  events : t.events = (reportGarbage s).events ++ [e]
  agrees : EventAgrees s raw e

theorem Fed.next {s t : State} {raw : List Byte} (h : Fed s raw t) (hst : t.st ≠ .seekingStart) (b : Byte) :
    ∃ u, feedByte b t = .next u ∧ Fed s (raw ++ [b]) u := by
  obtain ⟨u, hu, huInv⟩ := feedByte_completes h.inv b
  obtain ⟨hparams, hcfg, _⟩ := feedByte_keeps hu
  refine ⟨u, hu, ?_, huInv, hparams.trans h.params, hcfg.trans h.cfg, (feedByte_garbage hst hu).trans h.garbage⟩
  rw [feedAll_append_next h.run, feedAll_cons_next hu, feedAll_nil]

/-- The frame check reads the parameters and the configuration of the state only. -/
theorem EventAgrees.congr {s t : State} {raw : List Byte} {e : Event} (hparams : t.params = s.params)
    (hcfg : t.cfg = s.cfg) (h : EventAgrees t raw e) : EventAgrees s raw e := by
  unfold EventAgrees at h ⊢
  rwa [hparams, hcfg] at h

theorem AttemptOpen.next {s t : State} {raw : List Byte} (h : AttemptOpen s raw t) (b : Byte) :
    ∃ u, AttemptOpen s (raw ++ [b]) u ∨ ∃ e, AttemptClosed s (raw ++ [b]) u e := by
  obtain ⟨u, hu, hfed⟩ := h.toFed.next h.bytes.st_ne b
  refine ⟨u, ?_⟩
  cases feedByte_agrees h.inv h.bytes hu with
  | goesOn hbytes hev => exact .inl ⟨hfed, hev.trans h.events, hbytes⟩
  | ends e hst hev he => exact .inr ⟨e, hfed, hst, h.events ▸ hev, he.congr h.params h.cfg⟩

/-- The start byte opens an attempt (R142). -/
theorem attemptOpen_start {s : State} (hs : s.Inv) (hst : s.st = .seekingStart) :
    ∃ t, AttemptOpen s [s.cfg.startByte] t := by
  have hrun : feedByte s.cfg.startByte s = .next
      { reportGarbage s with c := 1#32, L := 0#16, P := 0#16, rx := [], k := 0#16, st := .readingLength } := by
    rw [feedByte_seekingStart hst, feedSeek_start rfl]
  obtain ⟨t, ht, htInv⟩ := feedByte_completes hs s.cfg.startByte
  cases hrun.symm.trans ht
  refine ⟨_, ⟨?_, htInv, reportGarbage_params s, reportGarbage_cfg s, reportGarbage_g s⟩, rfl, ?_⟩
  · rw [feedAll_cons_next hrun, feedAll_nil]
  · exact .start (by simp) rfl rfl

/-- Bytes that begin with the start byte leave the attempt open, or some of them end it. -/
theorem attempt_open_or_closed {s : State} (hs : s.Inv) (hst : s.st = .seekingStart) (rest : List Byte) :
    (∃ t, AttemptOpen s (s.cfg.startByte :: rest) t) ∨
      ∃ raw t e, raw <+: s.cfg.startByte :: rest ∧ AttemptClosed s raw t e := by
  induction rest using List.reverseRecOn with
  | nil => exact .inl (attemptOpen_start hs hst)
  | append_singleton rest b ih =>
    rw [← List.cons_append]
    obtain ⟨t, ht⟩ | ⟨raw, t, e, hraw, ht⟩ := ih
    · obtain ⟨u, hu | ⟨e, hu⟩⟩ := ht.next b
      · exact .inl ⟨u, hu⟩
      · exact .inr ⟨_, u, e, List.prefix_rfl, hu⟩
    · exact .inr ⟨raw, t, e, hraw.trans (List.prefix_append _ _), ht⟩

theorem AttemptClosed.ne_nil {s t : State} {raw : List Byte} {e : Event} (h : AttemptClosed s raw t e) : raw ≠ [] := by
  rintro rfl
  cases h.run
  have hlen := congrArg List.length h.events
  rw [reportGarbage_events] at hlen
  split at hlen
  · simp at hlen
  · simp at hlen

/-- The first half of R156: an attempt ends with one event, which agrees with the frame check. -/
theorem attemptEnds_closed {s t : State} {raw : List Byte} (hs : s.Inv) (h : AttemptEnds raw s t) :
    ∃ e, AttemptClosed s raw t e := by
  obtain ⟨hst, hhead, hrun, htst, hinside⟩ := h
  obtain ⟨rest, rfl⟩ := List.head?_eq_some_iff.1 hhead
  obtain ⟨u, hu⟩ | ⟨xs, u, e, hxs, hu⟩ := attempt_open_or_closed hs hst rest
  · cases hu.run.symm.trans hrun
    exact absurd htst hu.bytes.st_ne
  · obtain hlt | hge := Nat.lt_or_ge xs.length (s.cfg.startByte :: rest).length
    · refine absurd hu.st (hinside xs.length u (List.length_pos_iff.2 hu.ne_nil) hlt ?_)
      rw [← List.prefix_iff_eq_take.1 hxs]
      exact hu.run
    · obtain rfl := hxs.eq_of_length_le hge
      cases hu.run.symm.trans hrun
      exact ⟨e, hu⟩

/-! ## A slice with the layout of a frame -/

/-- The bytes end with a length field that declares more parameters than the budget (R144). -/
abbrev State.OverBudget (s : State) (raw : List Byte) : Prop :=
  raw.length = 2 + lengthBytes s.cfg.lw ∧
    ∃ p, paramCount s.cfg.lc (lengthValue (slice raw 2 raw.length)) = some p ∧ s.cfg.maxPayload < p

/-- The event for an answer of the frame check about `n` bytes; there is none for a truncated slice (R156). -/
def verdictEvent (n : Nat) : Except DecodeError Frame → Option Event
  | .ok f => some (.frame f)
  | .error .truncated => none
  | .error .badChecksum => some (.resync (BitVec.ofNat 32 n) .badChecksum)
  | .error .lengthMismatch => some (.resync (BitVec.ofNat 32 n) .lengthMismatch)
  | .error .unexpectedStartEnd => some (.resync (BitVec.ofNat 32 n) .unexpectedStartEnd)

/-- An event that agrees with the frame check reports the budget, or is the one for the frame check's answer. -/
theorem EventAgrees.overBudget_or_verdict {s : State} {raw : List Byte} {e : Event} (h : EventAgrees s raw e) :
    s.OverBudget raw ∨ verdictEvent raw.length (frameDecode s.params s.cfg raw) = some e := by
  cases e with
  | frame f =>
    have hdec : frameDecode s.params s.cfg raw = .ok f := h
    exact .inr (by rw [hdec, verdictEvent])
  | resync n r =>
    cases r with
    | budgetExceeded =>
      obtain ⟨_, hover⟩ := h
      exact .inl hover
    | lengthMismatch | unexpectedStartEnd | badChecksum =>
      obtain ⟨hn, hdec⟩ := h
      exact .inr (by rw [hdec, verdictEvent, ← hn, BitVec.ofNat_toNat, BitVec.setWidth_eq])
    | noStart => exact h.elim

/-- Within the budget, no event agrees with a frame's layout without its end. -/
theorem not_eventAgrees_properPrefix {s : State} {cmd : Byte} {len params csum raw : List Byte} {e : Event}
    (hfit : FieldsFit s.cfg len params csum) (hbudget : params.length ≤ s.cfg.maxPayload.toNat)
    (hraw : raw <+: frameBytes s.cfg cmd len params csum)
    (hproper : raw.length < (frameBytes s.cfg cmd len params csum).length) : ¬ EventAgrees s raw e := by
  intro h
  obtain ⟨hlength, p, hp, hover⟩ | hverdict := h.overBudget_or_verdict
  · obtain ⟨hlen, ⟨n, hcount, hn⟩, _⟩ := hfit
    obtain hshort | ⟨rest, rfl⟩ := prefix_frameBytes_cases hlen hraw
    · omega
    · rw [hlength, slice_header hlen, hcount] at hp
      cases hp
      have hover' : s.cfg.maxPayload.toNat < p.toNat := hover
      omega
  · rw [frameDecode_properPrefix hfit hraw hproper] at hverdict
    cases hverdict

section Layout

variable {s : State} {cmd : Byte} {len params csum : List Byte}

/-- A slice with the layout of a frame, within the budget, is a whole attempt: its last byte ends it. -/
theorem attemptClosed_frameBytes (hs : s.Inv) (hst : s.st = .seekingStart) (hfit : FieldsFit s.cfg len params csum)
    (hbudget : params.length ≤ s.cfg.maxPayload.toNat) :
    ∃ t e, AttemptClosed s (frameBytes s.cfg cmd len params csum) t e := by
  obtain ⟨t, ht⟩ | ⟨raw, t, e, hraw, ht⟩ :=
    attempt_open_or_closed hs hst (cmd :: (len ++ (params ++ (csum ++ [s.cfg.endByte]))))
  · have htrunc := ht.bytes.truncated ht.inv
    rw [ht.params, ht.cfg] at htrunc
    have hdec := htrunc.symm.trans (frameDecode_frameBytes hfit)
    split at hdec
    · cases hdec
    · cases hdec
  · obtain hlt | hge := Nat.lt_or_ge raw.length (frameBytes s.cfg cmd len params csum).length
    · exact absurd ht.agrees (not_eventAgrees_properPrefix hfit hbudget hraw hlt)
    · obtain rfl := hraw.eq_of_length_le hge
      exact ⟨t, e, ht⟩

/-- Before the last byte of such a slice nothing is emitted. -/
theorem feedAll_properPrefix_events (hs : s.Inv) (hst : s.st = .seekingStart) (hg : s.g = 0#32)
    (hfit : FieldsFit s.cfg len params csum) (hbudget : params.length ≤ s.cfg.maxPayload.toNat) {raw : List Byte}
    (hraw : raw <+: frameBytes s.cfg cmd len params csum)
    (hproper : raw.length < (frameBytes s.cfg cmd len params csum).length) :
    ∃ t, feedAll raw s = .next t ∧ t.events = s.events := by
  cases raw with
  | nil => exact ⟨s, rfl, rfl⟩
  | cons b rest =>
    obtain ⟨rfl, _⟩ := List.cons_prefix_cons.1 hraw
    obtain ⟨t, ht⟩ | ⟨xs, t, e, hxs, ht⟩ := attempt_open_or_closed hs hst rest
    · exact ⟨t, ht.run, by rw [ht.events, reportGarbage_events, if_pos hg]⟩
    · exact absurd ht.agrees (not_eventAgrees_properPrefix hfit hbudget (hxs.trans hraw)
        (Nat.lt_of_le_of_lt hxs.length_le hproper))

/-- The event of a whole frame's layout is the one for the frame check's answer: the budget is checked earlier. -/
theorem EventAgrees.verdict {e : Event} (h : EventAgrees s (frameBytes s.cfg cmd len params csum) e)
    (hfit : FieldsFit s.cfg len params csum) :
    verdictEvent (frameBytes s.cfg cmd len params csum).length
      (frameDecode s.params s.cfg (frameBytes s.cfg cmd len params csum)) = some e := by
  obtain ⟨hshort, _⟩ | hverdict := h.overBudget_or_verdict
  · rw [length_frameBytes cmd hfit.len_width hfit.csum_width, frameLength] at hshort
    omega
  · exact hverdict

end Layout

/-- The second half of R156: a slice that the frame check accepts, within the budget, is emitted as that frame. -/
theorem attemptClosed_of_frameDecode {s : State} {raw : List Byte} {f : Frame} (hs : s.Inv)
    (hst : s.st = .seekingStart) (hdec : frameDecode s.params s.cfg raw = .ok f)
    (hbudget : f.params.length ≤ s.cfg.maxPayload.toNat) :
    ∃ t, AttemptClosed s raw t (.frame f) := by
  obtain ⟨len, rfl, hfit, _⟩ := frameDecode_eq_ok.1 hdec
  obtain ⟨t, e, ht⟩ := attemptClosed_frameBytes (cmd := f.cmd) hs hst hfit hbudget
  have hverdict := ht.agrees.verdict hfit
  rw [hdec] at hverdict
  cases hverdict
  exact ⟨t, ht⟩

/-- Without a garbage run the event output holds nothing but the attempt's event. -/
theorem AttemptClosed.events_eq {s t : State} {raw : List Byte} {e : Event} (h : AttemptClosed s raw t e)
    (hg : s.g = 0#32) : t.events = s.events ++ [e] := by
  rw [h.events, reportGarbage_events, if_pos hg]

/-- Settles O47. -/
theorem streamAgreesWithFrameCheck : Obligations.StreamAgreesWithFrameCheck := by
  constructor
  · intro s t raw hs h
    obtain ⟨e, he⟩ := attemptEnds_closed hs h
    exact ⟨e, reportGarbage_events s ▸ he.events, he.agrees⟩
  · intro s raw f hs hst hg hdec hbudget
    obtain ⟨t, ht⟩ := attemptClosed_of_frameDecode hs hst hdec hbudget
    exact ⟨t, ht.run, ht.events_eq hg, ht.st, ht.garbage⟩

/-- Settles O50, by induction on the frames: each leaves the block where it found it (R159). -/
theorem backToBackFramesAllEmitted : Obligations.BackToBackFramesAllEmitted := by
  intro s fs hs hst hg hfs
  induction fs generalizing s with
  | nil => exact ⟨s, rfl, by simp, hst, hg⟩
  | cons x fs ih =>
    obtain ⟨⟨hdec, hbudget⟩, hrest⟩ := List.forall_mem_cons.1 hfs
    obtain ⟨u, hu⟩ := attemptClosed_of_frameDecode hs hst hdec hbudget
    obtain ⟨t, ht, hev, htst, htg⟩ := ih u hu.inv hu.st hu.garbage (by rwa [hu.params, hu.cfg])
    refine ⟨t, ?_, ?_, htst, htg⟩
    · rw [List.map_cons, List.flatten_cons, feedAll_append_next hu.run, ht]
    · rw [hev, hu.events_eq hg, List.map_cons, List.append_assoc, List.singleton_append]

/-! ## One changed parameter byte (R157) -/

/-- A changed parameter byte stands at its place in the layout. -/
theorem frameBytes_set_param {d : Dialect} {cmd x : Byte} {len params csum : List Byte} {i : Nat}
    (hlen : len.length = lengthBytes d.lw) (hi : i < params.length) :
    (frameBytes d cmd len params csum).set (2 + lengthBytes d.lw + i) x =
      frameBytes d cmd len (params.set i x) csum := by
  have hplace : 2 + lengthBytes d.lw + i = len.length + i + 2 := by omega
  rw [hplace, frameBytes, List.set_cons_succ, List.set_cons_succ, List.set_append_right _ _ (Nat.le_add_right _ _),
    Nat.add_sub_cancel_left, List.set_append_left _ _ hi]
  rfl

/-- Which fields fit does not depend on the values of the parameters. -/
theorem FieldsFit.set_param {d : Dialect} {len params csum : List Byte} (h : FieldsFit d len params csum) (i : Nat)
    (x : Byte) : FieldsFit d len (params.set i x) csum := by
  obtain ⟨hlen, ⟨n, hcount, hn⟩, hcsum⟩ := h
  exact ⟨hlen, ⟨n, hcount, by rw [List.length_set, hn]⟩, hcsum⟩

/-- The changed byte changes the checksum of the span (40_checksum.md R108). -/
theorem computeChecksum_set_param {p : Params} {a : Alg} {cmd x : Byte} {len params : List Byte} {i : Nat}
    (ha : DetectsByteChange p a) (hi : i < params.length) (hx : params[i]? ≠ some x) :
    computeChecksum p a (cmd :: (len ++ params.set i x)) ≠ computeChecksum p a (cmd :: (len ++ params)) := by
  have hspan : cmd :: (len ++ params.set i x) = (cmd :: (len ++ params)).set (len.length + i + 1) x := by
    rw [List.set_cons_succ, List.set_append_right _ _ (Nat.le_add_right _ _), Nat.add_sub_cancel_left]
  rw [hspan]
  refine oneByteChangeChangesChecksum p a _ _ x ha ?_ ?_
  · simp only [List.length_cons, List.length_append]
    omega
  · rwa [List.getElem?_cons_succ, List.getElem?_append_right (Nat.le_add_right _ _), Nat.add_sub_cancel_left]

/-- An encoded frame has the layout of a frame and carries the computed checksum. -/
theorem layout_of_frameEncode {p : Params} {d : Dialect} {cmd : Byte} {params raw : List Byte}
    (h : frameEncode p d cmd params = .ok raw) :
    ∃ len csum, raw = frameBytes d cmd len params csum ∧ FieldsFit d len params csum ∧
      csum = computeChecksum p d.alg (cmd :: (len ++ params)) := by
  obtain ⟨len, hraw, hfit, hcsum⟩ := frameDecode_eq_ok.1 (frameDecodeOfFrameEncode p d cmd params raw h)
  exact ⟨len, _, hraw, hfit, hcsum⟩

/-- Settles O51: the changed frame has the layout of a frame, and the frame check decides on its checksum alone. -/
theorem corruptedParameterGivesOneResync : Obligations.CorruptedParameterGivesOneResync := by
  intro s cmd x params raw i hs hst hg hbudget henc hi hx
  obtain ⟨len, csum, rfl, hfit, hcsum⟩ := layout_of_frameEncode henc
  have hfit' := hfit.set_param i x
  have hbudget' : (params.set i x).length ≤ s.cfg.maxPayload.toNat := by rwa [List.length_set]
  have hlength : (frameBytes s.cfg cmd len (params.set i x) csum).length =
      (frameBytes s.cfg cmd len params csum).length := by
    rw [← frameBytes_set_param hfit.len_width hi, List.length_set]
  have hdec := frameDecode_frameBytes (p := s.params) (cmd := cmd) hfit'
  obtain ⟨t, e, ht⟩ := attemptClosed_frameBytes (cmd := cmd) hs hst hfit' hbudget'
  have hverdict := ht.agrees.verdict hfit'
  rw [frameBytes_set_param hfit.len_width hi, ← hlength]
  constructor
  · intro hdetects
    rw [hdec, if_pos (hcsum ▸ (computeChecksum_set_param hdetects hi hx).symm)] at hverdict
    cases hverdict
    refine ⟨⟨t, ht.run, ht.st, ht.events_eq hg⟩, fun n hn => ?_⟩
    exact feedAll_properPrefix_events hs hst hg hfit' hbudget' (List.take_prefix _ _)
      (by rwa [List.length_take_of_le hn.le])
  · intro hnone
    obtain rfl : csum = [] := by rw [hcsum, hnone, computeChecksum]
    rw [hdec, if_neg (not_not.2 (by rw [hnone, computeChecksum]))] at hverdict
    cases hverdict
    exact ⟨t, ht.run, ht.st, ht.events_eq hg⟩

end Sys2Proof.Machine
end

section
/-! Settles the statements of 43_control.md: what RESET, CONFIGURE and a command with reserved bits do, and that the
configuration changes by CONFIGURE only. -/

namespace Sys2Proof.Machine

/-! ## Reserved bits and the reserved op (R175, R176) -/

/-- Settles O12. -/
theorem reservedOpSetsOpFault : Obligations.ReservedOpSetsOpFault := fun arg s => execReservedOp3_eq arg s

/-- Settles O7, one case per op whose reserved bits can be wrong. -/
theorem reservedWordsOnlySetOpFault : Obligations.ReservedWordsOnlySetOpFault := by
  rintro op arg s (rfl | ⟨rfl, hrsv⟩ | ⟨rfl, hrsv⟩)
  · rw [decode_reservedOp3]
    exact reservedOpSetsOpFault arg s
  · rw [decode_feed]
    exact execFeed_rsv hrsv _ s
  · rw [decode_reset]
    exact execReset_rsv hrsv s

/-! ## RESET (R170) -/

/-- Without a partial attempt and a garbage run there is nothing to restart. -/
theorem restart_eq_self {s : State} (hidle : s.AttemptIdle) (hg : s.g = 0#32) : restart s = s := by
  cases s
  obtain ⟨rfl, rfl, rfl, rfl, rfl⟩ := hidle
  cases hg
  rfl

/-- In UNCONFIGURED no legal configuration is loaded (10_state.md R23, R24). -/
theorem State.Inv.cfgValid_of_unconfigured {s : State} (hs : s.Inv) (hst : s.st = .unconfigured) :
    s.cfgValid = false := by
  simpa [hst] using hs.valid_iff

/-- Settles O9. -/
theorem resetRestartsResynchronizer : Obligations.ResetRestartsResynchronizer := by
  refine ⟨execReset_zero, ?_, ?_⟩
  · intro s t h
    cases (execReset_zero s).symm.trans h
    exact execReset_zero _
  · intro s hs hst
    have hidle : s.AttemptIdle := (phase_unconfigured hst).1 hs.phase
    have hg : s.g = 0#32 := hs.garbage (by simp [hst])
    refine (execReset_zero s).trans ?_
    rw [restart_eq_self hidle hg, hs.cfgValid_of_unconfigured hst, if_neg Bool.false_ne_true, ← hst]

/-! ## CONFIGURE (R171 to R174) -/

theorem exec_configure_legal {s : State} {start stop : Byte} {alg : BitVec 2} {lw lc : BitVec 1} {rsv : BitVec 4}
    {m : BitVec 16} {d : Dialect} (h : legalDialect s.params start stop alg lw lc rsv m = some d) :
    exec (.configure start stop alg lw lc rsv m) s = .next (loadDialect s d) := by
  simp only [exec, execConfigure, h, configured_some]

theorem exec_configure_illegal {s : State} {start stop : Byte} {alg : BitVec 2} {lw lc : BitVec 1} {rsv : BitVec 4}
    {m : BitVec 16} (h : alg = 3#2 ∨ rsv ≠ 0#4 ∨ s.params.bufDepth < m) :
    exec (.configure start stop alg lw lc rsv m) s = .next (refuseDialect s) := by
  simp only [exec, execConfigure, legalDialect_eq_none.2 h, configured_none]

/-- Legal operands give a Dialect (R172). -/
theorem exists_legalDialect {p : Params} {alg : BitVec 2} {rsv : BitVec 4} {m : BitVec 16} (halg : alg ≠ 3#2)
    (hrsv : rsv = 0#4) (hm : m ≤ p.bufDepth) (start stop : Byte) (lw lc : BitVec 1) :
    ∃ d, legalDialect p start stop alg lw lc rsv m = some d :=
  Option.ne_none_iff_exists'.1 fun hnone => by
    obtain h | h | h := legalDialect_eq_none.1 hnone
    · exact halg h
    · exact h hrsv
    · exact BitVec.not_lt.2 hm h

/-- Settles O10. -/
theorem legalConfigureLoadsDialect : Obligations.LegalConfigureLoadsDialect := by
  intro s start stop alg lw lc rsv m halg hrsv hm
  obtain ⟨d, hd⟩ := exists_legalDialect halg hrsv hm start stop lw lc
  obtain ⟨_, _, hcode, hfields⟩ := legalDialect_eq_some.1 hd
  refine ⟨d, ?_, ?_, hcode, ?_, ?_, ?_, exec_configure_legal hd⟩ <;> rw [hfields]
  · exact widthCode_widthOfCode lw
  · exact policyCode_policyOfCode lc

/-- Settles O11. -/
theorem illegalConfigureLeavesUnconfigured : Obligations.IllegalConfigureLeavesUnconfigured :=
  fun _ _ _ _ _ _ _ _ hbad => exec_configure_illegal hbad

/-! ## The presets (R178) -/

/-- The command the assembler writes for a Dialect loads that Dialect, where its budget fits the buffer. -/
theorem exec_configureCommand {s : State} {d : Dialect} (hd : d.maxPayload ≤ s.params.bufDepth) :
    exec (configureCommand d) s = .next (loadDialect s d) :=
  exec_configure_legal (legalDialect_eq_some.2 ⟨rfl, hd, rfl, by simp⟩)

/-- STATUS after the first legal CONFIGURE: SEEKING_START, `cfg_valid`, no flag and no garbage run (10_state.md R33). -/
theorem status_loadDialect_reset (d : Dialect) : status (loadDialect State.reset d) = 0x0009 := by
  simp [status, rxCode, State.reset]

/-- Settles O16: either preset asks for the budget `MAX_PAYLOAD`, which is at most `BUF_DEPTH` (00_scope.md R8). -/
theorem presetsConfigureFromPowerOn : Obligations.PresetsConfigureFromPowerOn := by
  intro d hd
  have hbudget : d.maxPayload ≤ State.reset.params.bufDepth := by
    obtain rfl | rfl := hd <;> exact config_params_ok
  exact ⟨_, exec_configureCommand hbudget, rfl, status_loadDialect_reset d⟩

/-! ## What can change the configuration (R173, R177; 70_reset_and_hazards.md R212) -/

/-- Every CONFIGURE, legal or not, restarts the resynchronizer in the state that fits `cfg_valid`. -/
theorem exec_configure_restarts {s t : State} {start stop : Byte} {alg : BitVec 2} {lw lc : BitVec 1} {rsv : BitVec 4}
    {m : BitVec 16} (h : exec (.configure start stop alg lw lc rsv m) s = .next t) :
    t.AttemptIdle ∧ t.g = 0#32 ∧ t.st = if t.cfgValid = true then .seekingStart else .unconfigured := by
  obtain ⟨d, _, rfl⟩ | ⟨_, rfl⟩ := execConfigure_cases h <;> exact ⟨restart_attemptIdle s, rfl, rfl⟩

/-- Settles O15. -/
theorem configurationChangesOnlyByConfigure : Obligations.ConfigurationChangesOnlyByConfigure := by
  intro i s t h
  by_cases hi : ∃ start stop alg lw lc rsv m, i = .configure start stop alg lw lc rsv m
  · obtain ⟨start, stop, alg, lw, lc, rsv, m, rfl⟩ := hi
    exact .inl ⟨⟨start, stop, alg, lw, lc, rsv, m, rfl⟩, exec_configure_restarts h⟩
  · have hi' : ∀ start stop alg lw lc rsv m, i ≠ .configure start stop alg lw lc rsv m := by simpa using hi
    exact .inr ⟨hi', exec_keeps_config hi' h⟩

/-- In UNCONFIGURED a command that is no CONFIGURE leaves the block there. -/
theorem exec_keeps_unconfigured {i : Instr} {s t : State}
    (hi : ∀ start stop alg lw lc rsv m, i ≠ .configure start stop alg lw lc rsv m) (hst : s.st = .unconfigured)
    (hvalid : s.cfgValid = false) (h : exec i s = .next t) : t.st = .unconfigured := by
  cases i with
  | feed rsv b =>
    obtain ⟨_, h⟩ | ⟨_, rfl⟩ := exec_feed_cases h
    · cases (feedByte_unconfigured hst b).symm.trans h
      exact hst
    · exact hst
  | reset rsv =>
    obtain ⟨_, rfl⟩ | ⟨_, rfl⟩ := exec_reset_cases h
    · exact if_neg (by simp [hvalid])
    · exact hst
  | configure start stop alg lw lc rsv m => exact absurd rfl (hi start stop alg lw lc rsv m)
  | reservedOp3 arg =>
    obtain rfl := exec_reservedOp3_next h
    exact hst

/-- Settles O13: a CONFIGURE that leaves `cfg_valid` set was legal, one that clears it leaves UNCONFIGURED. -/
theorem onlyLegalConfigureLeavesUnconfigured : Obligations.OnlyLegalConfigureLeavesUnconfigured := by
  intro i s t hst hvalid h
  obtain ⟨⟨start, stop, alg, lw, lc, rsv, m, rfl⟩, _, _, htst⟩ | ⟨hi, _, hkeep⟩ :=
    configurationChangesOnlyByConfigure i s t h
  · cases htvalid : t.cfgValid with
    | true =>
      obtain ⟨halg, rfl, hm⟩ := (exec_configure_cfgValid h).1 htvalid
      exact .inr ⟨start, stop, alg, lw, lc, m, rfl, halg, hm⟩
    | false => exact .inl ⟨by simpa [htvalid] using htst, rfl⟩
  · exact .inl ⟨exec_keeps_unconfigured hi hst hvalid h, hkeep.trans hvalid⟩

end Sys2Proof.Machine
end

section
/-! Settles the statements of 60_exceptions.md: a step without a command waits, the codes of the Resync reasons and of
the decode errors, and that no run from power-on stops. -/

namespace Sys2Proof.Machine

/-! ## The codes (R191) -/

/-- Settles O36, code by code. -/
theorem reasonCodesAsNumbered : Obligations.ReasonCodesAsNumbered :=
  ⟨rfl, rfl, rfl, rfl, rfl, rfl, rfl, rfl, rfl⟩

/-! ## One step takes one word of the channel, where there is one (R203) -/

/-- Settles O2. -/
theorem stepWithoutCommandWaits : Obligations.StepWithoutCommandWaits := by
  intro s h
  simp only [step, fetch_nil h]

/-- No command reads or writes the channel: the step took the command's word before. -/
theorem exec_input {i : Instr} {s t : State} (h : exec i s = .next t) : t.input = s.input := by
  cases i with
  | feed rsv b =>
    obtain ⟨_, _, _, hinput, _⟩ := feedFrame s t rsv b h
    exact hinput
  | reset rsv => obtain ⟨_, rfl⟩ | ⟨_, rfl⟩ := exec_reset_cases h <;> simp
  | configure start stop alg lw lc rsv m => obtain ⟨d, _, rfl⟩ | ⟨_, rfl⟩ := execConfigure_cases h <;> simp
  | reservedOp3 arg =>
    obtain rfl := exec_reservedOp3_next h
    simp

/-- Under the invariant a step never stops: stream errors and interface faults are next states (R190, R193). -/
theorem step_completes {s : State} (hs : s.Inv) : ∃ t, step s = .next t ∧ t.Inv ∧ t.input = s.input.drop 1 := by
  cases hin : s.input with
  | nil => exact ⟨s, stepWithoutCommandWaits s hin, hs, hin⟩
  | cons w rest =>
    obtain ⟨t, hexec, ht⟩ :=
      everyCommandCompletesUnderInvariant (decode w) { s with input := rest } (hs.withInput rest)
    exact ⟨t, (step_of_fetch (fetch_cons hin)).trans hexec, ht, exec_input hexec⟩

/-! ## A run (R190, R193) -/

theorem run_succ {s t : State} (h : step s = .next t) (n : Nat) :
    Host.Core.run Sys2Proof.core (n + 1) s = Host.Core.run Sys2Proof.core n t := by
  have hcore : Sys2Proof.core.step s = .next t := h
  simp only [Host.Core.run, hcore]

/-- From every state of the invariant, by induction on the number of steps. -/
theorem run_completes {s : State} (hs : s.Inv) (n : Nat) :
    ∃ t : State, Host.Core.run Sys2Proof.core n s = .next t ∧ t.Inv ∧ t.input = s.input.drop n := by
  induction n generalizing s with
  | zero => exact ⟨s, rfl, hs, rfl⟩
  | succ n ih =>
    obtain ⟨u, hstep, hu, huInput⟩ := step_completes hs
    obtain ⟨t, hrun, ht, htInput⟩ := ih hu
    refine ⟨t, (run_succ hstep n).trans hrun, ht, ?_⟩
    rw [htInput, huInput, List.drop_drop, Nat.add_comm]

/-- Settles O34: power-on meets the invariant, whatever words the channel holds. -/
theorem noRunFromPowerOnStops : Obligations.NoRunFromPowerOnStops := fun ws n =>
  run_completes (invariantHoldsAtReset.withInput ws) n

end Sys2Proof.Machine
end

section
/-! Settles the statements of 70_reset_and_hazards.md: the values at power-on, and what the commands that are no FEED
leave unchanged. -/

namespace Sys2Proof.Machine

/-! ## Power-on (R210) -/

/-- No state bit, flag or garbage run shows in STATUS at power-on (10_state.md R33). -/
theorem status_reset : status State.reset = 0x0000 := by simp [status, rxCode, State.reset]

/-- Settles O8, element by element of 10_state.md R37. -/
theorem powerOnResetValues : Obligations.PowerOnResetValues :=
  ⟨rfl, rfl, rfl, rfl, rfl, rfl, rfl, rfl, ⟨rfl, rfl, rfl⟩, rfl, status_reset⟩

/-! ## The frame of RESET, CONFIGURE and the reserved command (R211, R214, R215) -/

/-- The elements that restarting the resynchronizer leaves at their contents (10_state.md R27, R29), and the model's own
`params` (log 4). -/
theorem exec_control_keeps {i : Instr} {s t : State} (hi : ∀ rsv b, i ≠ .feed rsv b) (h : exec i s = .next t) :
    t.buf = s.buf ∧ t.cmd = s.cmd ∧ t.params = s.params := by
  cases i with
  | feed rsv b => exact absurd rfl (hi rsv b)
  | reset rsv => obtain ⟨_, rfl⟩ | ⟨_, rfl⟩ := exec_reset_cases h <;> simp
  | configure start stop alg lw lc rsv m => obtain ⟨d, _, rfl⟩ | ⟨_, rfl⟩ := execConfigure_cases h <;> simp
  | reservedOp3 arg =>
    obtain rfl := exec_reservedOp3_next h
    simp

/-- Only a FEED records a FEED while UNCONFIGURED (60_exceptions.md R193). -/
theorem exec_control_fUnconf {i : Instr} {s t : State} (hi : ∀ rsv b, i ≠ .feed rsv b) (h : exec i s = .next t) :
    t.fUnconf = s.fUnconf := by
  obtain ⟨hflag, _⟩ := flagsRecordExactlyTheMisuse i s t h
  exact Bool.eq_iff_iff.2 (hflag.trans (or_iff_left fun ⟨_, b, hb⟩ => hi 0#32 b hb))

/-- Settles O25: the buffer reads as before because it is the same buffer. -/
theorem controlCommandsFrame : Obligations.ControlCommandsFrame := by
  intro i s t hi h
  obtain ⟨hbuf, hcmd, hparams⟩ := exec_control_keeps hi h
  exact ⟨fun a => congrArg (Memory.read · a) hbuf, hcmd, exec_control_events hi h, exec_input h, hparams,
    exec_control_fUnconf hi h⟩

end Sys2Proof.Machine
end
